-- ==== Sys2Proof/Word.lean ====
section
/-! DEFINITION. The word and byte types of the IRBC. Every quantity the source names is 32 bits wide
(`92_eei_decisions.md` D2), and memory is byte addressed (`10_state.md` R33). -/

namespace Sys2Proof

/-- A byte of memory. -/
abbrev Byte := BitVec 8

/-- A 32-bit word: a register, a FIFO word, a cursor word, or an address of the local core's memory
space (`00_scope.md` R6, "address width 32 bits"). -/
abbrev Word := BitVec 32

end Sys2Proof
end

