-- ==== Sys2Proof/Config.lean ====
section
/-! DEFINITION. What an implementation fixes, and the free values. The parameters of `00_scope.md` R7 are
the structure `Params`, which State carries so that every statement holds for each choice of them; the
constants of R6 are plain definitions. The `opaque` constants have no body: nothing can be proved of
their values. -/

namespace Sys2Proof

namespace Config

/-- The alignment of cursors and blocks, RB_ALIGNMENT (`00_scope.md` R6). -/
def rbAlignment : Nat := 16

/-- The largest payload WRITE sends, RB_MAX_PAYLOAD_LEN (`00_scope.md` R6). -/
def rbMaxPayloadLen : Nat := 1040

/-- The message header inside a block: a 16-byte id and a 4-byte reserved word, MSG_HDR_SIZE (`00_scope.md` R6). -/
def msgHdrSize : Nat := 20

/-- The number of FIFO entries of one negotiation, NEG_ENTRIES (`00_scope.md` R6). -/
def negEntries : Nat := 3

/-- NEG_PENDING_THRESHOLD (`00_scope.md` R7): one FIFO entry. -/
def negPendingThreshold : Nat := 1

/-- How far MBOX_FIFO_DEPTH exceeds its least value 3. `00_scope.md` R7 leaves the depth OPEN. -/
opaque mboxDepthAboveThree : Nat

/-- The number of the mailbox's software-interrupt port, SW_IRQ_PORT; `00_scope.md` R7 leaves it OPEN. -/
opaque swIrqPort : Nat

/-- The free byte of draw n: a value the spec calls "any value" (`93_implementation_defined.md` I6, I8, I9,
I20). -/
opaque freeByte : Nat → Byte

/-- How many of the oldest inbound entries the failed pop of draw n drops; the FIFO then holds "any suffix of
the previous contents" (`60_exceptions.md` R165, `93_implementation_defined.md` I10). -/
opaque freeDrop : Nat → Nat

end Config

/-- The parameters of `00_scope.md` R7: four that an implementation chooses, and MBOX_POP_MAY_FAIL, which R7 fixes. -/
structure Params where
  /-- RB_HDR_SIZE, the ring header size in bytes. -/
  rbHdrSize : Nat
  /-- NEG_TIMEOUT: whether the negotiation timeout is enabled. -/
  negTimeout : Bool
  /-- MBOX_FIFO_DEPTH, the capacity of the inbound command FIFO. -/
  mboxFifoDepth : Nat
  /-- MBOX_POP_MAY_FAIL: whether a FIFO pop may answer an error. It is true on this hardware. -/
  popMayFail : Bool
  /-- SW_IRQ_PORT: which mailbox interrupt events are the partner's signals. -/
  swIrqPort : Nat
deriving DecidableEq, Repr

/-- The choices of `00_scope.md` R7 for this hardware: the spec's defaults, and opaque constants for the two
OPEN parameters. -/
def Params.default : Params where
  rbHdrSize := 64
  negTimeout := false
  mboxFifoDepth := Config.mboxDepthAboveThree + 3
  popMayFail := true
  swIrqPort := Config.swIrqPort

/-- The limits `00_scope.md` R7 sets: RB_HDR_SIZE is a multiple of 16 and at least 16 (and fits its 16 bits of
PARAM0, `10_state.md` R24), MBOX_FIFO_DEPTH is at least 3, and MBOX_POP_MAY_FAIL is true
(`92_eei_decisions.md` D35). -/
structure Params.Valid (p : Params) : Prop where
  hdrAligned : p.rbHdrSize % 16 = 0
  hdrLeast : 16 ≤ p.rbHdrSize
  hdrFits : p.rbHdrSize < 2 ^ 16
  depthLeast : 3 ≤ p.mboxFifoDepth
  popsMayFail : p.popMayFail = true

end Sys2Proof
end

