-- ==== Sys2Proof/Syntax.lean ====
section
/-! DEFINITION. The syntax: the ten instructions of spec/opcode_table.json (seven command words, three FIFO
tags), the mailbox FIFO entry, and the host's and the partner's acts. -/

namespace Sys2Proof

/-- The instructions of the IRBC (`00_scope.md` R2): the seven commands of the command register and the three
negotiation tags of mailbox FIFO entries, each tag with the data word its entry carries (`30_encoding.md` R69). -/
inductive Instr where
  /-- OPEN, with CMD.RXIE, the value IRQ_EN.RXIE takes on success (`45_session.md` R142). -/
  | openSocket (rxie : Bool)
  /-- CLOSE (`45_session.md` R144). -/
  | close
  /-- NEGPEND (`42_negotiation.md` R108). -/
  | negPend
  /-- NEGOTIATE (`42_negotiation.md` R99). -/
  | negotiate
  /-- RESET, with CMD.BOTH (`45_session.md` R146). -/
  | reset (both : Bool)
  /-- WRITE (`43_write.md` R114). -/
  | write
  /-- READ (`44_read.md` R127). -/
  | read
  /-- A popped LOCAL_BUFFER_DESC entry with its descriptor word (`42_negotiation.md` R102). -/
  | localBufferDesc (data : Word)
  /-- A popped REMOTE_BUFFER_DESC entry with its descriptor word (`42_negotiation.md` R102). -/
  | remoteBufferDesc (data : Word)
  /-- A popped END_OF_SETUP entry; its data word is present and ignored (`30_encoding.md` R69). -/
  | endOfSetup (data : Word)
deriving DecidableEq, Repr

/-- A mailbox command FIFO entry, a pair of 32-bit words (`30_encoding.md` R69). -/
structure Entry where
  cmd : Word
  data : Word
deriving DecidableEq, Repr

/-- One access at the register port: its size in bytes and its offset in the 0x100-byte window
(`10_state.md` R14, R15). -/
structure Access where
  size : Nat
  offset : BitVec 8
deriving DecidableEq, Repr

/-- The 32-bit access at an offset: what a `W` or `R` line of a host program makes (`30_encoding.md` R78). -/
def Access.at32 (offset : BitVec 8) : Access := { size := 4, offset := offset }

/-- What the host does: register-port accesses, the poll loop of `30_encoding.md` R78, and memory accesses
(`70_reset_and_hazards.md` R190, `20_memory.md` R49): of one byte, or of 32 bits, plain, acquire or release. `race` says
that the access is in a data race (`20_memory.md` R53, log 1); a 32-bit access has one bit for each byte. -/
inductive HostAct where
  | regRead (acc : Access)
  | regWrite (acc : Access) (value : Word)
  | poll (acc : Access) (mask value : Word)
  | load (addr : Word) (race : Bool)
  | store (addr : Word) (value : Byte) (race : Bool)
  | load32 (addr : Word) (race : BitVec 4)
  | store32 (addr : Word) (value : Word) (race : BitVec 4)
  | loadAcq (addr : Word) (race : BitVec 4)
  | storeRel (addr : Word) (value : Word) (race : BitVec 4)
deriving DecidableEq, Repr

/-- What the partner does: pushes, signals on a port of the mailbox, memory accesses (`20_memory.md` R49), pops of the
outbound FIFO (`45_session.md` R148), and the `Mbx.Clear` of a partner that is a second IRBC (`60_exceptions.md` R165,
R170). `race` is as for the host. -/
inductive PartnerAct where
  | push (e : Entry)
  | signal (port : Nat)
  | load (addr : Word) (race : Bool)
  | store (addr : Word) (value : Byte) (race : Bool)
  | load32 (addr : Word) (race : BitVec 4)
  | store32 (addr : Word) (value : Word) (race : BitVec 4)
  | loadAcq (addr : Word) (race : BitVec 4)
  | storeRel (addr : Word) (value : Word) (race : BitVec 4)
  | popOutbound
  | clear (both : Bool)
deriving DecidableEq, Repr

/-- What the environment and the freedom of the implementation decide in one controller step: which pending data
access goes next (`20_memory.md` R42, `93_implementation_defined.md` I22), whether the memory port answers with an
error (`20_memory.md` R59), whether the pop answers `Err` (`93_implementation_defined.md` I16), and which bytes of the
memory access are in a data race (`20_memory.md` R53, log 1): bit k of `race` is byte k, the lowest address first. -/
structure CtlChoice where
  pick : Nat
  busError : Bool
  popErr : Bool
  race : BitVec 4
deriving DecidableEq, Repr

/-- The choice of a controller step with no error and no race, its data accesses in program order. -/
def CtlChoice.plain : CtlChoice := { pick := 0, busError := false, popErr := false, race := 0 }

/-- Which agent takes the next step (`70_reset_and_hazards.md` R190). -/
inductive Turn where
  /-- one step of the controller -/
  | controller (c : CtlChoice)
  /-- the host's next act -/
  | host
  /-- the partner's next act -/
  | partner
  /-- the mailbox delivers `extra + 1` of the partner's signals to the IRBC as one event -/
  | deliverToIrbc (extra : Nat)
  /-- the mailbox delivers `extra + 1` of the IRBC's signals to the partner as one event -/
  | deliverToPartner (extra : Nat)
  /-- the NEG_TIMEOUT event (`42_negotiation.md` R106) -/
  | timeout
  /-- the reset input (`70_reset_and_hazards.md` R171) -/
  | reset
deriving DecidableEq, Repr

end Sys2Proof
end

