-- ==== Sys2Proof/WellFormed.lean ====
section
/-! DEFINITION. The checks on syntax. An instruction's operand types hold exactly the values its encoding admits
(one bit for RXIE and BOTH, a 32-bit word for a data word), so no instruction term is ill formed; the checks that
can fail are those on a register access (`10_state.md` R15). -/

namespace Sys2Proof

/-- Every instruction term is well formed: `30_encoding.md` R64 gives OPEN and RESET one bit each, R69 gives an
entry a 32-bit data word, and the other commands have no field. -/
def Instr.wf : Instr → Bool
  | .openSocket _ => true
  | .close => true
  | .negPend => true
  | .negotiate => true
  | .reset _ => true
  | .write => true
  | .read => true
  | .localBufferDesc _ => true
  | .remoteBufferDesc _ => true
  | .endOfSetup _ => true

/-- `10_state.md` R15, rule 1: only 32-bit accesses are defined. -/
def Access.sizeOk (a : Access) : Bool := a.size == 4

/-- `10_state.md` R15, rule 1: the offset is a multiple of 4. -/
def Access.alignedOk (a : Access) : Bool := a.offset.toNat % 4 == 0

/-- An access the register port performs: aligned and 32 bits wide. -/
def Access.wf (a : Access) : Bool := a.sizeOk && a.alignedOk

end Sys2Proof
end

