-- ==== Sys2Proof/Decode.lean ====
section
/-! DEFINITION. The decoders of `30_encoding.md` (a CMD word, R64 to R67; a FIFO entry, R69), total and rejecting by
name, and the encoder after them. Which decoder reads a word depends on where the word stands: the command
register holds CMD words, the mailbox FIFO holds entries. -/

namespace Sys2Proof

/-- Why a word is no instruction. -/
inductive DecodeError where
  /-- No row of `30_encoding.md` R65 matches the CMD word (R67, ILLEGAL_CMD). -/
  | illegalCmd
  /-- The entry's first word is none of the three tags (`30_encoding.md` R69, NEG_UNKNOWN_TAG). -/
  | unknownTag
deriving DecidableEq, Repr

/-- A row of the opcode map (`30_encoding.md` R65): the match, the mask, and how the operand bits become a command. -/
structure CmdRow where
  pat : Word
  mask : Word
  build : Word → Instr

/-- The opcode map of `30_encoding.md` R65, in its order. -/
def cmdTable : List CmdRow :=
  [ { pat := 0x00000001, mask := 0xFFFFFFDF, build := fun c => .openSocket (c.getLsbD 5) },
    { pat := 0x00000002, mask := 0xFFFFFFFF, build := fun _ => .close },
    { pat := 0x00000003, mask := 0xFFFFFFFF, build := fun _ => .negPend },
    { pat := 0x00000004, mask := 0xFFFFFFFF, build := fun _ => .negotiate },
    { pat := 0x00000005, mask := 0xFFFFFFEF, build := fun c => .reset (c.getLsbD 4) },
    { pat := 0x00000006, mask := 0xFFFFFFFF, build := fun _ => .write },
    { pat := 0x00000007, mask := 0xFFFFFFFF, build := fun _ => .read } ]

/-- A word is the command of a row iff `(c & mask) = match` (`30_encoding.md` R65). -/
def CmdRow.accepts (r : CmdRow) (c : Word) : Bool := (c &&& r.mask) == r.pat

/-- Decode a word written to CMD (`30_encoding.md` R65, R67). -/
def decodeCmd (c : Word) : Except DecodeError Instr :=
  match cmdTable.find? (fun r => r.accepts c) with
  | some r => .ok (r.build c)
  | none => .error .illegalCmd

/-- The tag LOCAL_BUFFER_DESC (`30_encoding.md` R69). -/
def tagLocal : Word := 0xBA5E0001
/-- The tag REMOTE_BUFFER_DESC (`30_encoding.md` R69). -/
def tagRemote : Word := 0xBA5E0002
/-- The tag END_OF_SETUP (`30_encoding.md` R69). -/
def tagEnd : Word := 0xBA5E0003

/-- Decode a mailbox FIFO entry. The cmd word is compared as a whole 32-bit value (`30_encoding.md` R69). -/
def decodeEntry (e : Entry) : Except DecodeError Instr :=
  if e.cmd = tagLocal then .ok (.localBufferDesc e.data)
  else if e.cmd = tagRemote then .ok (.remoteBufferDesc e.data)
  else if e.cmd = tagEnd then .ok (.endOfSetup e.data)
  else .error .unknownTag

/-- The opcode field OPC of a CMD word (`30_encoding.md` R64), which STATUS.LOPC records. -/
def opcField (c : Word) : BitVec 4 := c.extractLsb' 0 4

/-- The CMD word of a command (`30_encoding.md` R64, R65), or the tag of an entry (R69): the first word. -/
def firstWord : Instr → Word
  | .openSocket rxie => if rxie then 0x00000021 else 0x00000001
  | .close => 0x00000002
  | .negPend => 0x00000003
  | .negotiate => 0x00000004
  | .reset both => if both then 0x00000015 else 0x00000005
  | .write => 0x00000006
  | .read => 0x00000007
  | .localBufferDesc _ => tagLocal
  | .remoteBufferDesc _ => tagRemote
  | .endOfSetup _ => tagEnd

/-- The words of an instruction (`30_encoding.md` R63): one for a command, two for a FIFO entry. -/
def encode : Instr → List Word
  | .localBufferDesc d => [tagLocal, d]
  | .remoteBufferDesc d => [tagRemote, d]
  | .endOfSetup d => [tagEnd, d]
  | .openSocket rxie => [firstWord (.openSocket rxie)]
  | .close => [firstWord .close]
  | .negPend => [firstWord .negPend]
  | .negotiate => [firstWord .negotiate]
  | .reset both => [firstWord (.reset both)]
  | .write => [firstWord .write]
  | .read => [firstWord .read]

/-- Decode the words of a format (`30_encoding.md` R63): one word is a CMD word, two are a FIFO entry. -/
def decodeWords : List Word → Except DecodeError Instr
  | [c] => decodeCmd c
  | [c, d] => decodeEntry { cmd := c, data := d }
  | [] => .error .illegalCmd
  | _ :: _ :: _ :: _ => .error .unknownTag

/-- The first 32-bit word of an instruction whose bits are numbered as spec/opcode_table.json numbers them. -/
def tableFirstWord (nbits w : Nat) : Word := BitVec.ofNat 32 (w % 2 ^ nbits)

/-- The second 32-bit word; the table gives a FIFO entry's data word no bits, so it is 0 for a table row. -/
def tableSecondWord (nbits w : Nat) : Word := BitVec.ofNat 32 (w % 2 ^ nbits / 2 ^ 32)

/-- The entry that a table row's bits stand for when the row is a FIFO tag. -/
def tableEntry (nbits w : Nat) : Entry :=
  { cmd := tableFirstWord nbits w, data := tableSecondWord nbits w }

/-- The instruction the decoders read from the bits of a table row. A tag word goes to the entry decoder, as it
does when it comes out of the mailbox FIFO; every other word goes to the CMD decoder. -/
def decodeTableWord (nbits w : Nat) : Option Instr :=
  match decodeEntry (tableEntry nbits w) with
  | .ok i => some i
  | .error _ =>
    match decodeCmd (tableFirstWord nbits w) with
    | .ok i => some i
    | .error _ => none

end Sys2Proof
end

