-- ==== Sys2Proof/Machine/State.lean ====
section
/-! DEFINITION. The state of the IRBC as plain data: the registers of `10_state.md`, the controller's internal state,
memory, the mailbox, and the environment that still acts. INVENTORY.md's State section lists every field with
the rule that names it. -/

namespace Sys2Proof.Machine

/-- STATUS.ERR: the four error kinds of the source, and success (`30_encoding.md` R74). -/
inductive ErrKind where
  | ok
  | parameter
  | insufficientSpace
  | negotiationFailed
  | hardwareState
deriving DecidableEq, Repr

/-- STATUS.DETAIL (`30_encoding.md` R75), in the table's order. -/
inductive Detail where
  | none
  | illegalCmd
  | notOpen
  | alreadyOpen
  | notNegotiated
  | nullAddr
  | zeroLen
  | tooLong
  | wrNoRoom
  | rdEmpty
  | rdLenStraddle
  | rdBadLength
  | rdDstTooSmall
  | negFifoError
  | negUnknownTag
  | negDupTag
  | negBadLocalCap
  | negBadRemoteCap
  | negTimeout
  | cursorInvalid
  | hwfLatched
  | busError
deriving DecidableEq, Repr

/-- The stored fields of STATUS (`10_state.md` R16). BUSY, NEGP, FSM and NEGK are computed from other state. -/
structure Status where
  /-- OPEN: the socket is open. -/
  isOpen : Bool
  /-- RV: both ring descriptors are negotiated and stored. -/
  rv : Bool
  /-- HWF: the hardware-state fault latch (`10_state.md` R19). -/
  hwf : Bool
  /-- OVR: a register write was ignored because BUSY was 1 (`60_exceptions.md` R164). -/
  ovr : Bool
  /-- ERR of the last completed command. -/
  err : ErrKind
  /-- DETAIL of the last completed command. -/
  detail : Detail
  /-- LOPC: the OPC field of the command in progress or last completed. -/
  lopc : BitVec 4
deriving DecidableEq, Repr

/-- IRQ_EN and IRQ_PEND (`10_state.md` R20). -/
structure Irq where
  rxie : Bool
  rxp : Bool
deriving DecidableEq, Repr

/-- A 16-byte id in four registers, ID0..ID3 or RID0..RID3 (`10_state.md` R21, R22). -/
structure IdRegs where
  w0 : Word
  w1 : Word
  w2 : Word
  w3 : Word
deriving DecidableEq, Repr

/-- The argument registers (`10_state.md` R21). -/
structure Args where
  id : IdRegs
  addr : Word
  len : Word
deriving DecidableEq, Repr

/-- The result registers (`10_state.md` R22). -/
structure Results where
  rid : IdRegs
  rlen : Word
deriving DecidableEq, Repr

/-- The ring descriptor registers (`10_state.md` R23). -/
structure Rings where
  ldesc : Word
  lbase : Word
  lcap : Word
  rdesc : Word
  rbase : Word
  rcap : Word
deriving DecidableEq, Repr

/-- The controller FSM state (`10_state.md` R26). -/
inductive Fsm where
  | idle
  | negWait
  | exec
deriving DecidableEq, Repr

/-- negKind (`42_negotiation.md` R100): which command started the negotiation. -/
inductive NegKind where
  | openCmd
  | negotiateCmd
deriving DecidableEq, Repr

/-- The negotiation's internal state (`10_state.md` R27). -/
structure Neg where
  /-- negKind. -/
  kind : NegKind
  /-- The entries popped so far, oldest first: negEnt[0 .. negK-1], so negK is the length. -/
  ents : List Entry
  /-- abortReq: a CLOSE or RESET was accepted during NEG_WAIT (`42_negotiation.md` R107). -/
  abortReq : Bool
  /-- abortCmd: the CMD word of that CLOSE or RESET. -/
  abortCmd : Word
  /-- The timeout event has come and is pending (`42_negotiation.md` R106). -/
  timeoutEv : Bool
  /-- cmdWord: the accepted CMD value (`10_state.md` R27, log 6), which NEG_SUCCESS reads (`45_session.md` R142). -/
  cmdWord : Word
deriving DecidableEq, Repr

/-- Which long data command runs while `fsm` is EXEC (`10_state.md` R26). -/
inductive XferCmd where
  | write
  | read
deriving DecidableEq, Repr

/-- The position inside the pseudocode of WRITE (`43_write.md` R114) or READ (`44_read.md` R127): the primitive
that comes next. -/
inductive Phase where
  /-- the acquire read of the partner's cursor -/
  | loadPeer
  /-- the plain read of the IRBC's own cursor -/
  | loadOwn
  /-- READ's read of the length field -/
  | loadLen
  /-- a data access -/
  | data
  /-- the release write of the IRBC's own cursor -/
  | publish
  /-- `Mbx.Signal()` -/
  | signal
deriving DecidableEq, Repr

/-- A pending data access of the running command. An `overlap` bit marks an address at which two areas of the command
overlap (`20_memory.md` R47): the value read or written there is a free value. -/
inductive DataOp where
  /-- a plain write of one byte -/
  | put (dst : Word) (b : Byte) (overlap : Bool)
  /-- a plain read of one byte, whose value a `put` then writes at `dst` -/
  | copy (src dst : Word) (srcOverlap dstOverlap : Bool)
  /-- READ's plain read of message header byte k -/
  | header (src : Word) (k : Nat) (overlap : Bool)
deriving DecidableEq, Repr

/-- The command temporaries of WRITE and READ (`10_state.md` R27) and the position in the command. -/
structure Xfer where
  cmd : XferCmd
  phase : Phase
  /-- The loaded writeIndex. -/
  w : Word
  /-- The loaded readIndex. -/
  r : Word
  /-- READ's length field L. -/
  len : Word
  /-- The ring position after the payload. -/
  pos : Nat
  /-- The data accesses not yet performed. -/
  todo : List DataOp
  /-- The id bytes READ has gathered. -/
  ident : IdRegs
deriving DecidableEq, Repr

/-- Memory: the listed bytes, by rising address (Memory.lean says what the canonical form is). -/
abbrev Mem := List Host.Cell

/-- The mailbox (`10_state.md` R32). -/
structure Mailbox where
  /-- The inbound command FIFO, oldest entry first. -/
  inbound : List Entry
  /-- The outbound command FIFO, oldest entry first. -/
  outbound : List Entry
  /-- The IRBC's signals not yet delivered to the partner. -/
  sigToPartner : Nat
  /-- The partner's signals not yet delivered to the IRBC. -/
  sigFromPartner : Nat
  /-- The software-interrupt events delivered to the partner so far. -/
  partnerIrqs : Nat
deriving DecidableEq, Repr

/-- The register port's last answer, or what the host's last memory read returned (log 16). -/
inductive HostResp where
  | none
  | done
  | data (v : Word)
  | byte (b : Byte)
  /-- the error response of `10_state.md` R15 -/
  | error
deriving DecidableEq, Repr

/-- What the environment still does. These fields are the model's own (log 5). -/
structure Env where
  /-- Whose turn comes next; when it is empty the controller moves. -/
  sched : List Turn
  /-- The host's acts to come. -/
  hostProg : List HostAct
  /-- The partner's acts to come. -/
  partnerProg : List PartnerAct
  hostResp : HostResp
deriving DecidableEq, Repr

/-- The agents that access memory (`20_memory.md` R49). -/
inductive Agent where
  | controller
  | host
  | partner
deriving DecidableEq, Repr

/-- The kinds of event (`20_memory.md` R49), with the length-field read told apart from the other plain reads
(R50), and with what R50 to R52 order against memory accesses: the signal, the mailbox's push and pop, the host's CMD
write that begins a command, and the host's read of STATUS that shows BUSY = 0. A push and a pop carry the number of the
entry that enters or leaves the inbound FIFO, counted from 0 over all entries that have entered it. -/
inductive EventKind where
  | plainRead
  | lenRead
  | plainWrite
  | acqRead
  | relWrite
  | signal
  | push (entry : Nat)
  | pop (entry : Nat)
  | cmdWrite
  | idleRead
deriving DecidableEq, Repr

/-- Why a byte of an access has a free value: it is in a data race (`20_memory.md` R53), or it lies where two areas of
the command overlap (R47). -/
structure Mark where
  race : Bool
  overlap : Bool
deriving DecidableEq, Repr

/-- One byte of an event: the value read or left in memory, and its mark. -/
structure EventByte where
  val : Byte
  mark : Mark
deriving DecidableEq, Repr

/-- One event (`20_memory.md` R49): its bytes are at `addr`, `addr + 1`, … modulo 2^32. -/
structure Event where
  agent : Agent
  /-- The number of the IRBC command it belongs to (the last one begun, for the other agents). -/
  cmdNo : Nat
  kind : EventKind
  addr : Word
  bytes : List EventByte
  /-- It is a 32-bit access of a cursor word (`20_memory.md` R49, R53). -/
  cursor : Bool
deriving DecidableEq, Repr

/-- The model's own record, which no rule reads (log 4, log 20). -/
structure Ghost where
  /-- The number of the next free value: an access takes one number for each of its bytes (log 4). -/
  draws : Nat
  /-- How many commands have begun that take controller steps after their CMD write (OPEN, NEGOTIATE, WRITE, READ). -/
  cmdNo : Nat
  /-- The events so far, newest first. -/
  trace : List Event
  /-- Every entry that has entered the inbound FIFO, oldest first, those that entered before the start included. -/
  entered : List Entry
deriving DecidableEq, Repr

/-- The whole state. -/
structure State where
  /-- The implementation parameters, which nothing changes (`00_scope.md` R7). -/
  cfg : Params
  status : Status
  irq : Irq
  args : Args
  results : Results
  rings : Rings
  fsm : Fsm
  neg : Neg
  xfer : Xfer
  mem : Mem
  mbx : Mailbox
  env : Env
  ghost : Ghost
deriving DecidableEq, Repr

/-- The reasons a step could stop the machine. There is none: "There is no vector, no saved state, no mode change"
and no command ever halts the controller (`60_exceptions.md` R153, `00_scope.md` R11), every 32-bit address may be
accessed (`20_memory.md` R44, R48), and an access the register port does not perform is answered with an error
response (`10_state.md` R15). Safe: with no constructor, no claim can hold by a fault. -/
inductive Fault where
deriving DecidableEq, Repr

/-- The reasons a step could be refused. -/
inductive Refusal where
  /-- An instruction without a meaning; no arm of `exec` answers with it. Safe: it ends the run. -/
  | notModelled (mnemonic : String)
deriving DecidableEq, Repr

/-- Four zero registers. -/
def IdRegs.zero : IdRegs := { w0 := 0, w1 := 0, w2 := 0, w3 := 0 }

/-- STATUS at reset, 0x00000000 (`70_reset_and_hazards.md` R172). -/
def Status.atReset : Status :=
  { isOpen := false, rv := false, hwf := false, ovr := false, err := .ok, detail := .none, lopc := 0 }

/-- IRQ_EN and IRQ_PEND at reset (`70_reset_and_hazards.md` R172). -/
def Irq.atReset : Irq := { rxie := false, rxp := false }

/-- ID0..ID3, ADDR and LEN at reset (`70_reset_and_hazards.md` R172). -/
def Args.atReset : Args := { id := IdRegs.zero, addr := 0, len := 0 }

/-- RID0..RID3 and RLEN at reset (`70_reset_and_hazards.md` R172). -/
def Results.atReset : Results := { rid := IdRegs.zero, rlen := 0 }

/-- The descriptor registers unset: 0, as at reset (R172) and whenever RV is cleared (`10_state.md` R18). -/
def Rings.unset : Rings := { ldesc := 0, lbase := 0, lcap := 0, rdesc := 0, rbase := 0, rcap := 0 }

/-- The negotiation's state at reset: cmdWord, negK and abortReq are 0 (`70_reset_and_hazards.md` R172).
DESIGN CHOICE for the fields R172 leaves unspecified (negKind, abortCmd, log 8): no rule reads them before they are
written. -/
def Neg.atReset : Neg :=
  { kind := .openCmd, ents := [], abortReq := false, abortCmd := 0, timeoutEv := false, cmdWord := 0 }

/-- The command temporaries at reset. DESIGN CHOICE (log 8): R172 leaves them unspecified, and no rule reads one
before it is written. -/
def Xfer.atReset : Xfer :=
  { cmd := .write, phase := .loadPeer, w := 0, r := 0, len := 0, pos := 0, todo := [], ident := IdRegs.zero }

/-- The mailbox a run from `State.reset` starts with: everything empty. DESIGN CHOICE (log 19):
`70_reset_and_hazards.md` R190 lets a run start with the mailbox in any state. -/
def Mailbox.empty : Mailbox :=
  { inbound := [], outbound := [], sigToPartner := 0, sigFromPartner := 0, partnerIrqs := 0 }

/-- An environment with nothing to do (log 5). -/
def Env.empty : Env := { sched := [], hostProg := [], partnerProg := [], hostResp := .none }

/-- The record before anything has happened. -/
def Ghost.start : Ghost := { draws := 0, cmdNo := 0, trace := [], entered := [] }

/-- The machine right after reset (`70_reset_and_hazards.md` R172), with nothing in memory, in the mailbox or in the
environment (log 5, log 19). -/
def State.reset : State where
  cfg := Params.default
  status := Status.atReset
  irq := Irq.atReset
  args := Args.atReset
  results := Results.atReset
  rings := Rings.unset
  fsm := .idle
  neg := Neg.atReset
  xfer := Xfer.atReset
  mem := []
  mbx := Mailbox.empty
  env := Env.empty
  ghost := Ghost.start

end Sys2Proof.Machine
end

