-- ==== Sys2Proof/Machine/Memory.lean ====
section
/-! DEFINITION. Memory as a list of (address, byte) pairs in one canonical form: addresses strictly rising and below
2^32, and no entry equal to what an unlisted address reads as. The space is the 32-bit byte-addressed space of
`10_state.md` R33; it has no holes (`20_memory.md` R44, R48). -/

namespace Sys2Proof.Machine

/-- What an address that the list does not name reads as. DESIGN CHOICE (log 2): the spec lets shared memory hold
anything at the start of a run (`70_reset_and_hazards.md` R173, R190). -/
def Mem.unlisted : Byte := 0

/-- The byte at address `a`. -/
def Mem.read : Mem → Nat → Byte
  | [], _ => Mem.unlisted
  | c :: m, a => if c.1 = a then c.2 else Mem.read m a

/-- The memory with byte `b` at address `a`. -/
def Mem.write : Mem → Nat → Byte → Mem
  | [], a, b => if b = Mem.unlisted then [] else [(a, b)]
  | c :: m, a, b =>
    if c.1 = a then (if b = Mem.unlisted then m else (a, b) :: m)
    else if a < c.1 then (if b = Mem.unlisted then c :: m else (a, b) :: c :: m)
    else c :: Mem.write m a b

/-- Every address of the list is above `lo`. -/
def Mem.above (lo : Nat) (m : Mem) : Bool := m.all fun c => decide (lo < c.1)

/-- The canonical form. -/
def Mem.wf : Mem → Bool
  | [] => true
  | c :: m => decide (c.1 < 2 ^ 32) && !(c.2 == Mem.unlisted) && Mem.above c.1 m && Mem.wf m

/-- The byte at a 32-bit address. -/
def Mem.read8 (m : Mem) (a : Word) : Byte := Mem.read m a.toNat

/-- The memory with one byte written at a 32-bit address. -/
def Mem.write8 (m : Mem) (a : Word) (b : Byte) : Mem := Mem.write m a.toNat b

/-- A byte string written at `a`, `a + 1`, … ; addresses wrap modulo 2^32 (`20_memory.md` R46). -/
def Mem.writeBytes : Mem → Word → List Byte → Mem
  | m, _, [] => m
  | m, a, b :: bs => Mem.writeBytes (Mem.write8 m a b) (a + 1) bs

/-- The bytes at `a`, `a + 1`, … , `n` of them; addresses wrap modulo 2^32 (`20_memory.md` R46). -/
def Mem.readBytes (m : Mem) (a : Word) : Nat → List Byte
  | 0 => []
  | n + 1 => Mem.read8 m a :: Mem.readBytes m (a + 1) n

end Sys2Proof.Machine
end

