-- ==== Sys2Proof/Machine/Flags.lean ====
section
/-! DEFINITION. The condition state: the codes of ERR and DETAIL (`30_encoding.md` R74, R75), the STATUS word
(`10_state.md` R16) and the interrupt output (`60_exceptions.md` R160). -/

namespace Sys2Proof.Machine

/-- The number of an ERR value (`30_encoding.md` R74). -/
def ErrKind.code : ErrKind → BitVec 4
  | .ok => 0
  | .parameter => 1
  | .insufficientSpace => 2
  | .negotiationFailed => 3
  | .hardwareState => 4

/-- The number of a DETAIL value (`30_encoding.md` R75). -/
def Detail.code : Detail → BitVec 8
  | .none => 0x00
  | .illegalCmd => 0x01
  | .notOpen => 0x02
  | .alreadyOpen => 0x03
  | .notNegotiated => 0x04
  | .nullAddr => 0x05
  | .zeroLen => 0x06
  | .tooLong => 0x07
  | .wrNoRoom => 0x10
  | .rdEmpty => 0x11
  | .rdLenStraddle => 0x12
  | .rdBadLength => 0x13
  | .rdDstTooSmall => 0x14
  | .negFifoError => 0x20
  | .negUnknownTag => 0x21
  | .negDupTag => 0x22
  | .negBadLocalCap => 0x23
  | .negBadRemoteCap => 0x24
  | .negTimeout => 0x25
  | .cursorInvalid => 0x30
  | .hwfLatched => 0x31
  | .busError => 0x32

/-- The one ERR value each DETAIL goes with (`30_encoding.md` R75). -/
def Detail.kind : Detail → ErrKind
  | .none => .ok
  | .illegalCmd => .parameter
  | .notOpen => .parameter
  | .alreadyOpen => .parameter
  | .notNegotiated => .parameter
  | .nullAddr => .parameter
  | .zeroLen => .parameter
  | .tooLong => .parameter
  | .wrNoRoom => .insufficientSpace
  | .rdEmpty => .insufficientSpace
  | .rdLenStraddle => .insufficientSpace
  | .rdBadLength => .insufficientSpace
  | .rdDstTooSmall => .insufficientSpace
  | .negFifoError => .negotiationFailed
  | .negUnknownTag => .negotiationFailed
  | .negDupTag => .negotiationFailed
  | .negBadLocalCap => .negotiationFailed
  | .negBadRemoteCap => .negotiationFailed
  | .negTimeout => .negotiationFailed
  | .cursorInvalid => .hardwareState
  | .hwfLatched => .hardwareState
  | .busError => .hardwareState

/-- STATUS.FSM (`10_state.md` R16); the value 3 is never produced. -/
def Fsm.code : Fsm → BitVec 2
  | .idle => 0
  | .negWait => 1
  | .exec => 2

/-- STATUS.BUSY is `fsm != IDLE` (`10_state.md` R16). -/
def State.busy (s : State) : Bool := s.fsm != .idle

/-- `Mbx.Count() >= NEG_PENDING_THRESHOLD`: the test NEGPEND and NEGP share (`42_negotiation.md` R108, R109). -/
def State.fifoPending (s : State) : Bool :=
  decide (Config.negPendingThreshold ≤ s.mbx.inbound.length)

/-- STATUS.NEGP, computed at every read (`10_state.md` R16, `42_negotiation.md` R109). -/
def State.negp (s : State) : Bool := s.status.isOpen && s.fifoPending

/-- negK, the number of FIFO entries consumed by the negotiation in progress (`10_state.md` R27). -/
def State.negK (s : State) : Nat := s.neg.ents.length

/-- The STATUS word (`10_state.md` R16), highest field first. -/
def State.statusWord (s : State) : Word :=
  0#6 ++ BitVec.ofNat 2 s.negK ++ s.status.detail.code ++ s.status.lopc ++ s.status.err.code ++ s.fsm.code
    ++ BitVec.ofBool s.status.ovr ++ BitVec.ofBool s.status.hwf ++ BitVec.ofBool s.negp
    ++ BitVec.ofBool s.status.rv ++ BitVec.ofBool s.status.isOpen ++ BitVec.ofBool s.busy

/-- The interrupt output, a level: `irq = RXP & RXIE` (`60_exceptions.md` R160). -/
def State.irqLine (s : State) : Bool := s.irq.rxp && s.irq.rxie

end Sys2Proof.Machine
end

