-- ==== Sys2Proof/Machine/Operands.lean ====
section
/-! DEFINITION. Operand forms: addresses, bytes of a word, the id registers as a byte string, and the register
map of the register port (`10_state.md` R14 to R24). -/

namespace Sys2Proof.Machine

/-- `addr32(x)`, that is `x mod 2^32` (`00_scope.md` R8, `20_memory.md` R46). -/
def addr32 (x : Nat) : Word := BitVec.ofNat 32 x

/-- Byte k of a word, byte 0 the least significant (`20_memory.md` R34). -/
def byteOf (v : Word) (k : Nat) : Byte := v.extractLsb' (8 * k) 8

/-- `le32(v)`: the four bytes of v, least significant first (`00_scope.md` R8). -/
def le32 (v : Word) : List Byte := [byteOf v 0, byteOf v 1, byteOf v 2, byteOf v 3]

/-- The word of four bytes, the first the least significant (`20_memory.md` R34). -/
def wordOfBytes (b0 b1 b2 b3 : Byte) : Word := b3 ++ b2 ++ b1 ++ b0

/-- The little-endian 32-bit value at `a` (`00_scope.md` R10, `20_memory.md` R34, R46). -/
def Mem.read32 (m : Mem) (a : Word) : Word :=
  wordOfBytes (m.read8 a) (m.read8 (a + 1)) (m.read8 (a + 2)) (m.read8 (a + 3))

/-- A word with byte k replaced. -/
def setByteOf (v : Word) (k : Nat) (b : Byte) : Word :=
  (v &&& ~~~((0xFF : Word) <<< (8 * k))) ||| (b.setWidth 32 <<< (8 * k))

/-- Register k of an id file, k = 0..3 (`10_state.md` R21: `r.ID[k]`). -/
def IdRegs.word (r : IdRegs) : Nat → Word
  | 0 => r.w0
  | 1 => r.w1
  | 2 => r.w2
  | _ => r.w3

/-- An id file with register k replaced, k = 0..3. -/
def IdRegs.setWord (r : IdRegs) (k : Nat) (v : Word) : IdRegs :=
  match k with
  | 0 => { r with w0 := v }
  | 1 => { r with w1 := v }
  | 2 => { r with w2 := v }
  | _ => { r with w3 := v }

/-- Byte k of the id: `r.ID[k div 4][8*(k mod 4)+7 : 8*(k mod 4)]` (`10_state.md` R21). -/
def IdRegs.byte (r : IdRegs) (k : Nat) : Byte := byteOf (r.word (k / 4)) (k % 4)

/-- The id file with byte k replaced, by the byte mapping of `10_state.md` R21. -/
def IdRegs.setByte (r : IdRegs) (k : Nat) (b : Byte) : IdRegs :=
  r.setWord (k / 4) (setByteOf (r.word (k / 4)) (k % 4) b)

/-- `idBytes(r.ID)`: the 16 id bytes in order (`43_write.md` R114, `20_memory.md` R35). -/
def IdRegs.bytes (r : IdRegs) : List Byte := (List.range 16).map r.byte

/-- The registers of the register window (`10_state.md` R14). -/
inductive Reg where
  | cmd | status | irqEn | irqPend
  | id0 | id1 | id2 | id3
  | addr | len
  | rid0 | rid1 | rid2 | rid3
  | rlen
  | ldesc | lbase | lcap | rdesc | rbase | rcap
  | param0 | param1
deriving DecidableEq, Repr

/-- The register map (`10_state.md` R14); every other offset is reserved. -/
def regMap : List (BitVec 8 × Reg) :=
  [ (0x00, .cmd), (0x04, .status), (0x08, .irqEn), (0x0C, .irqPend),
    (0x10, .id0), (0x14, .id1), (0x18, .id2), (0x1C, .id3),
    (0x20, .addr), (0x24, .len),
    (0x28, .rid0), (0x2C, .rid1), (0x30, .rid2), (0x34, .rid3),
    (0x38, .rlen),
    (0x40, .ldesc), (0x44, .lbase), (0x48, .lcap), (0x4C, .rdesc), (0x50, .rbase), (0x54, .rcap),
    (0x58, .param0), (0x5C, .param1) ]

/-- The register at an offset, or none at a reserved offset. -/
def regAt (offset : BitVec 8) : Option Reg := (regMap.find? fun e => e.1 == offset).map Prod.snd

/-- PARAM0: RB_HDR_SIZE in bits 15:0, RB_ALIGNMENT in bits 23:16, MSG_HDR_SIZE in bits 31:24 (`10_state.md` R24). -/
def param0Word (cfg : Params) : Word :=
  BitVec.ofNat 8 Config.msgHdrSize ++ BitVec.ofNat 8 Config.rbAlignment ++ BitVec.ofNat 16 cfg.rbHdrSize

/-- PARAM1: RB_MAX_PAYLOAD_LEN in bits 15:0 (`10_state.md` R24). -/
def param1Word : Word := 0#16 ++ BitVec.ofNat 16 Config.rbMaxPayloadLen

/-- The value a read of a register returns (`10_state.md` R14, R16, R20 to R24). It has no side effect (R15). -/
def State.readReg (s : State) : Reg → Word
  | .cmd => 0
  | .status => s.statusWord
  | .irqEn => 0#31 ++ BitVec.ofBool s.irq.rxie
  | .irqPend => 0#31 ++ BitVec.ofBool s.irq.rxp
  | .id0 => s.args.id.w0
  | .id1 => s.args.id.w1
  | .id2 => s.args.id.w2
  | .id3 => s.args.id.w3
  | .addr => s.args.addr
  | .len => s.args.len
  | .rid0 => s.results.rid.w0
  | .rid1 => s.results.rid.w1
  | .rid2 => s.results.rid.w2
  | .rid3 => s.results.rid.w3
  | .rlen => s.results.rlen
  | .ldesc => s.rings.ldesc
  | .lbase => s.rings.lbase
  | .lcap => s.rings.lcap
  | .rdesc => s.rings.rdesc
  | .rbase => s.rings.rbase
  | .rcap => s.rings.rcap
  | .param0 => param0Word s.cfg
  | .param1 => param1Word

/-- The value a read at an offset returns: 0 at a reserved offset (`10_state.md` R15, rule 2). -/
def State.readOffset (s : State) (offset : BitVec 8) : Word :=
  match regAt offset with
  | some r => s.readReg r
  | none => 0

end Sys2Proof.Machine
end

