-- ==== Sys2Proof/Machine/Ops.lean ====
section
/-! DEFINITION. The named operations over the state: memory accesses with their events, free values, the completion
of a command (the IRBC's only exception mechanism, `60_exceptions.md` R153: `raise` takes the error, `complete` returns
success), and the shared effects of the session commands. -/

namespace Sys2Proof.Machine

/-! ### Events and memory -/

/-- The byte at an address (`00_scope.md` R10: `MemRead(addr, 1)`). -/
def State.load8 (s : State) (a : Word) : Byte := s.mem.read8 a

/-- The word at an address (`00_scope.md` R10: `MemRead(addr, 4)`, `MemReadAcq32(addr)`). -/
def State.load32 (s : State) (a : Word) : Word := s.mem.read32 a

/-- The base of the ring that an entry places (`30_encoding.md` R69, `40_descriptor.md` R80). -/
def Entry.ringBases (e : Entry) : List Word :=
  if e.cmd = tagLocal ∨ e.cmd = tagRemote then [e.data &&& 0xFFFFFFE0] else []

/-- The entries that a partner's program still pushes. -/
def pushesOf (acts : List PartnerAct) : List Entry :=
  acts.filterMap fun a =>
    match a with
    | .push e => some e
    | _ => none

/-- The bases of the run's rings: those the registers name, and those of every entry that has entered the inbound FIFO
or that the partner is still to push. So a ring is one from before its push, when the partner sets up its cursors
(`70_reset_and_hazards.md` R176), and stays one after CLOSE, RESET and reset (DEDUCED, log 1). -/
def State.ringBases (s : State) : List Word :=
  (if s.status.rv then [s.rings.lbase, s.rings.rbase] else []) ++
    (s.ghost.entered ++ pushesOf s.env.partnerProg).flatMap Entry.ringBases

/-- The addresses of the cursor words: writeIndex and readIndex of each ring (`10_state.md` R28, R29). -/
def State.cursorAddrs (s : State) : List Word := s.ringBases.flatMap fun b => [b, b + 4]

/-- An access of `n` bytes at `a` is a 32-bit cursor access (`20_memory.md` R41, R49): four bytes, aligned, at a cursor
word, and not READ's length-field read (R42). -/
def State.cursorAccess (s : State) (kind : EventKind) (a : Word) (n : Nat) : Bool :=
  kind != .lenRead && n == 4 && a.toNat % 4 == 0 && s.cursorAddrs.contains a

/-- Record an event of an agent (`20_memory.md` R49). -/
def State.emit (agent : Agent) (kind : EventKind) (addr : Word) (bytes : List EventByte) (s : State) : State :=
  { s with ghost := { s.ghost with
      trace := { agent := agent, cmdNo := s.ghost.cmdNo, kind := kind, addr := addr, bytes := bytes,
                 cursor := s.cursorAccess kind addr bytes.length } :: s.ghost.trace } }

/-- Count n numbers of free values as taken (log 4). -/
def State.drawn (n : Nat) (s : State) : State :=
  { s with ghost := { s.ghost with draws := s.ghost.draws + n } }

/-- Read memory as one event of an agent. -/
def State.loadBytes (agent : Agent) (kind : EventKind) (addr : Word) (bytes : List EventByte) (s : State) : State :=
  (s.drawn bytes.length).emit agent kind addr bytes

/-- Write memory as one event of an agent (`00_scope.md` R10: `MemWrite`, `MemWriteRel32`). -/
def State.storeBytes (agent : Agent) (kind : EventKind) (addr : Word) (bytes : List EventByte) (s : State) : State :=
  { (s.drawn bytes.length).emit agent kind addr bytes with mem := s.mem.writeBytes addr (bytes.map EventByte.val) }

/-! ### Free values -/

/-- The byte is neither in a race nor in an overlap. -/
def Mark.clear : Mark := { race := false, overlap := false }

/-- The value of a byte so marked is free (`20_memory.md` R47, R53). -/
def Mark.free (m : Mark) : Bool := m.race || m.overlap

/-- The free byte of the access's byte k (log 4). -/
def State.freeByte (s : State) (k : Nat) : Byte := Config.freeByte (s.ghost.draws + k)

/-- The word of the next four free bytes. -/
def State.freeWord (s : State) : Word := wordOfBytes (s.freeByte 0) (s.freeByte 1) (s.freeByte 2) (s.freeByte 3)

/-- The value that byte k of a read returns: the byte in memory, or a free value. -/
def State.byteRead (a : Word) (k : Nat) (m : Mark) (s : State) : Byte := if m.free then s.freeByte k else s.load8 a

/-- The value that byte k of a write leaves: the byte given, or a free value. -/
def State.byteWritten (b : Byte) (k : Nat) (m : Mark) (s : State) : Byte := if m.free then s.freeByte k else b

/-- The value of a 32-bit read whose byte k has mark `m k`. -/
def State.wordRead (a : Word) (m : Nat → Mark) (s : State) : Word :=
  wordOfBytes (s.byteRead a 0 (m 0)) (s.byteRead (a + 1) 1 (m 1)) (s.byteRead (a + 2) 2 (m 2))
    (s.byteRead (a + 3) 3 (m 3))

/-- The value a 32-bit write leaves whose byte k has mark `m k`. -/
def State.wordWritten (v : Word) (m : Nat → Mark) (s : State) : Word :=
  wordOfBytes (s.byteWritten (byteOf v 0) 0 (m 0)) (s.byteWritten (byteOf v 1) 1 (m 1))
    (s.byteWritten (byteOf v 2) 2 (m 2)) (s.byteWritten (byteOf v 3) 3 (m 3))

/-- The four bytes of a 32-bit access with their marks. -/
def wordBytes (m : Nat → Mark) (v : Word) : List EventByte :=
  [{ val := byteOf v 0, mark := m 0 }, { val := byteOf v 1, mark := m 1 },
   { val := byteOf v 2, mark := m 2 }, { val := byteOf v 3, mark := m 3 }]

/-- The marks of a 32-bit access that no command makes: only its race bits. -/
def raceMarks (race : BitVec 4) (k : Nat) : Mark := { race := race.getLsbD k, overlap := false }

/-- The bytes of a mailbox FIFO entry, which are no memory access. -/
def entryBytes (e : Entry) : List EventByte :=
  wordBytes (fun _ => Mark.clear) e.cmd ++ wordBytes (fun _ => Mark.clear) e.data

/-! ### Completion -/

/-- `raise E(DETAIL)`: the command ends with an error (`00_scope.md` R11). BUSY is `fsm != IDLE`, so it clears with it.
DESIGN CHOICE (log 8): the temporaries of WRITE and READ keep their last values, where `10_state.md` R27 leaves them
undefined outside a command and never read there. -/
def State.raise (d : Detail) (s : State) : State :=
  { s with status := { s.status with err := d.kind, detail := d }, fsm := .idle }

/-- `complete()`: the command ends with success (`00_scope.md` R11). DESIGN CHOICE (log 8): the temporaries keep their
last values, as in `raise`. -/
def State.complete (s : State) : State :=
  { s with status := { s.status with err := .ok, detail := .none }, fsm := .idle }

/-- Set STATUS.HWF and raise a HardwareState error, in one step (`10_state.md` R19). -/
def State.raiseHwf (d : Detail) (s : State) : State :=
  State.raise d { s with status := { s.status with hwf := true } }

/-- STATUS.LOPC takes the OPC field of the accepted command (`10_state.md` R17). -/
def State.setLopc (opc : BitVec 4) (s : State) : State :=
  { s with status := { s.status with lopc := opc } }

/-! ### Acceptance of a CMD write -/

/-- A register write is ignored because BUSY = 1: OVR is set (`10_state.md` R15, rule 5). -/
def State.overrun (s : State) : State := { s with status := { s.status with ovr := true } }

/-- cmdWord takes the accepted CMD value (`10_state.md` R27, log 6). -/
def State.acceptCmd (i : Instr) (s : State) : State := { s with neg := { s.neg with cmdWord := firstWord i } }

/-- A legal CLOSE or RESET written in NEG_WAIT is accepted as an abort (`42_negotiation.md` R107, `10_state.md` R27). -/
def State.requestAbort (i : Instr) (s : State) : State :=
  { s with neg := { s.neg with abortReq := true, abortCmd := firstWord i, cmdWord := firstWord i } }

/-- A command begins that takes controller steps after its CMD write: it gets its number, and the CMD write, ordered
before all its events (`20_memory.md` R51), is recorded (log 20). -/
def State.beginCmd (s : State) : State :=
  State.emit .host .cmdWrite 0 [] { s with ghost := { s.ghost with cmdNo := s.ghost.cmdNo + 1 } }

/-- A command that only an idle controller accepts: while BUSY = 1 its CMD write is ignored and sets OVR
(`10_state.md` R15, rule 5). -/
def State.atIdle (f : State → State) (s : State) : State :=
  match s.fsm with
  | .idle => f s
  | .negWait => s.overrun
  | .exec => s.overrun

/-- CLOSE and RESET: an idle controller runs them, a waiting negotiation takes them as its abort, and a running
WRITE or READ ignores them and sets OVR (`10_state.md` R15, `42_negotiation.md` R107, `45_session.md` R151). -/
def State.atIdleOrAbort (i : Instr) (f : State → State) (s : State) : State :=
  match s.fsm with
  | .idle => f s
  | .negWait => s.requestAbort i
  | .exec => s.overrun

/-- Record the opcode, then demand an open socket: `Parameter(NOT_OPEN)` on a closed one, with nothing else changed (`45_session.md` R144, R146,
`42_negotiation.md` R99, R108, `43_write.md` R114, `44_read.md` R127). -/
def State.withOpen (opc : BitVec 4) (f : State → State) (s : State) : State :=
  if s.status.isOpen then f (s.setLopc opc) else (s.setLopc opc).raise .notOpen

/-- An illegal CMD word (`30_encoding.md` R67): at BUSY = 0 it completes at once with `Parameter(ILLEGAL_CMD)` and sets
LOPC; at BUSY = 1 it is ignored and sets OVR. -/
def State.illegalCmd (c : Word) (s : State) : State :=
  s.atIdle fun s => (s.setLopc (opcField c)).raise .illegalCmd

/-! ### The rings and the session -/

/-- Clear RV, and with it the six descriptor registers in the same step (`10_state.md` R18). -/
def State.unsetRings (s : State) : State :=
  { s with status := { s.status with rv := false }, rings := Rings.unset }

/-- CLOSE_EFFECTS (`45_session.md` R145). -/
def State.closeEffects (s : State) : State :=
  { s with
    status := { s.status with isOpen := false, rv := false, hwf := false }
    rings := Rings.unset
    irq := { rxie := false, rxp := false } }

/-- `Mbx.Clear(both)`: empties the inbound FIFO, and with `both` the outbound FIFO too (`60_exceptions.md` R165). -/
def Mailbox.clear (both : Bool) (m : Mailbox) : Mailbox :=
  { m with inbound := [], outbound := if both then [] else m.outbound }

/-- RESET_EFFECTS(both) (`45_session.md` R147). -/
def State.resetEffects (both : Bool) (s : State) : State :=
  { s with
    mbx := s.mbx.clear both
    status := { s.status with rv := false, hwf := false }
    rings := Rings.unset }

end Sys2Proof.Machine
end

