-- ==== Sys2Proof/Machine/Ring.lean ====
section
/-! DEFINITION. The descriptor parser (`40_descriptor.md`) and the ring primitives and cursor arithmetic
(`41_ring_primitives.md`), on unbounded integers as `00_scope.md` R8 says. -/

namespace Sys2Proof.Machine

/-- What DESC_PARSE returns: the descriptor word, the base pointer, and the exact capacity, which may be 0 or
negative (`40_descriptor.md` R80). -/
structure Desc where
  desc : Word
  base : Word
  cap : Int
deriving DecidableEq, Repr

/-- DESC_PARSE (`40_descriptor.md` R80): a pure function of the word and RB_HDR_SIZE (R83). -/
def descParse (hdr : Nat) (word : Word) : Desc :=
  { desc := word
    base := word &&& 0xFFFFFFE0
    cap := ((2 ^ (word.extractLsb' 0 5).toNat : Nat) : Int) - (hdr : Int) }

/-- A parsed descriptor is valid iff its capacity is strictly positive (`40_descriptor.md` R81). -/
def Desc.valid (d : Desc) : Bool := decide (0 < d.cap)

/-- A ring view `{base, cap}` (`40_descriptor.md` R85). -/
structure RingView where
  base : Word
  cap : Nat
deriving DecidableEq, Repr

/-- The local ring `(LBASE, LCAP)` (`40_descriptor.md` R85). -/
def State.localRing (s : State) : RingView := { base := s.rings.lbase, cap := s.rings.lcap.toNat }

/-- The remote ring `(RBASE, RCAP)` (`40_descriptor.md` R85). -/
def State.remoteRing (s : State) : RingView := { base := s.rings.rbase, cap := s.rings.rcap.toNat }

/-- The address of the ring's writeIndex, WIDX_OFF = 0 (`20_memory.md` R45). -/
def RingView.widxAddr (g : RingView) : Word := addr32 (g.base.toNat + 0)

/-- The address of the ring's readIndex, RIDX_OFF = 4 (`20_memory.md` R45). -/
def RingView.ridxAddr (g : RingView) : Word := addr32 (g.base.toNat + 4)

/-- The address of ring position `pos` (`20_memory.md` R45). -/
def RingView.dataAddr (g : RingView) (hdr pos : Nat) : Word := addr32 (g.base.toNat + hdr + pos)

/-- The address of the i-th byte of a copy that starts at ring position `pos`, wrapping at the capacity
(`41_ring_primitives.md` R86, R87). -/
def RingView.byteAddr (g : RingView) (hdr pos i : Nat) : Word := g.dataAddr hdr ((pos + i) % g.cap)

/-- RB_WRITE (`41_ring_primitives.md` R86) on memory, byte by byte: the reference that WRITE's data accesses must
equal (`20_memory.md` R42). -/
def rbWrite (hdr : Nat) (g : RingView) (m : Mem) (pos : Nat) : List Byte → Mem
  | [] => m
  | b :: bs => rbWrite hdr g (m.write8 (g.byteAddr hdr pos 0) b) (pos + 1) bs

/-- RB_READ (`41_ring_primitives.md` R87) on memory: the bytes it returns. -/
def rbRead (hdr : Nat) (g : RingView) (m : Mem) (pos len : Nat) : List Byte :=
  (List.range len).map fun i => m.read8 (g.byteAddr hdr pos i)

/-- The position RB_WRITE and RB_READ return: `(pos + len) mod cap` (`41_ring_primitives.md` R86, R87). -/
def RingView.advance (g : RingView) (pos len : Nat) : Nat := (pos + len) % g.cap

/-- `cursorOK(v, cap)` (`10_state.md` R30). -/
def cursorOK (v : Word) (cap : Nat) : Bool := decide (v.toNat < cap) && v.toNat % Config.rbAlignment == 0

/-- ALIGN_POS (`41_ring_primitives.md` R90). -/
def alignPos (p cap : Nat) : Nat :=
  let q := (p + 15) / 16 * 16
  if q = cap then 0 else q

/-- `alignUp16(x)`: the least multiple of 16 that is at least x (`00_scope.md` R8). -/
def alignUp16 (x : Nat) : Nat := (x + 15) / 16 * 16

/-- FREE_SPACE (`41_ring_primitives.md` R91). -/
def freeSpace (w r cap : Nat) : Nat := if r ≤ w then r + cap - w else r - w

/-- AVAIL_DATA (`41_ring_primitives.md` R92). -/
def availData (r w cap : Nat) : Nat := if r ≤ w then w - r else w + cap - r

/-- REQUIRED(P) = 4 + MSG_HDR_SIZE + P (`41_ring_primitives.md` R94). -/
def required (p : Nat) : Nat := 4 + Config.msgHdrSize + p

/-! ### Overlap of the areas of one command (`20_memory.md` R47) -/

/-- Address `a` lies in the run of `len` bytes from `start`, which wraps modulo 2^32. -/
def inRun (start : Word) (len : Nat) (a : Word) : Bool := decide ((a - start).toNat < len)

/-- Address `a` lies both in the host's buffer (ADDR, LEN) and in the ring of the command, header and data area: a byte
the command reads or writes there is a free value (`20_memory.md` R47, `43_write.md` R122, `44_read.md` R138,
`93_implementation_defined.md` I6; log 11). -/
def State.overlapped (s : State) (g : RingView) (a : Word) : Bool :=
  inRun s.args.addr s.args.len.toNat a && inRun g.base (s.cfg.rbHdrSize + g.cap) a

/-- The marks of a 32-bit access of the command at `a`: its race bits, and the overlap of each byte. -/
def State.cmdMarks (s : State) (g : RingView) (race : BitVec 4) (a : Word) (k : Nat) : Mark :=
  { race := race.getLsbD k, overlap := s.overlapped g (a + BitVec.ofNat 32 k) }

end Sys2Proof.Machine
end

