-- ==== Sys2Proof/Machine/Negotiation.lean ====
section
/-! DEFINITION. The negotiation FSM (`42_negotiation.md`): NEGOTIATE and NEGPEND, the start, the judgement of the
three entries, success, failure and abort, and the meanings of the three FIFO tags. -/

namespace Sys2Proof.Machine

/-- NEG_START(kind) (`42_negotiation.md` R100). No timeout event is pending yet (log 14). -/
def State.negStart (kind : NegKind) (s : State) : State :=
  { s.unsetRings.beginCmd with
    neg := { s.neg with kind := kind, ents := [], timeoutEv := false }
    fsm := .negWait }

/-- The failed or abandoned OPEN leaves the socket closed with RXIE = 0 (`42_negotiation.md` R104, R107). -/
def State.tearDownOpen (s : State) : State :=
  match s.neg.kind with
  | .openCmd => { s with status := { s.status with isOpen := false }, irq := { s.irq with rxie := false } }
  | .negotiateCmd => s

/-- negK returns to 0 when a negotiation ends, and a pending timeout event is spent (`42_negotiation.md` R103,
R104, R107). -/
def State.negOver (s : State) : State := { s with neg := { s.neg with ents := [], timeoutEv := false } }

/-- NEG_FAIL(detail) (`42_negotiation.md` R104). -/
def State.negFail (d : Detail) (s : State) : State := s.negOver.tearDownOpen.raise d

/-- What OPEN sets on success (`42_negotiation.md` R103, `45_session.md` R142): OPEN, and RXIE from cmdWord[5]. -/
def State.finishOpen (s : State) : State :=
  match s.neg.kind with
  | .openCmd =>
    { s with status := { s.status with isOpen := true }, irq := { s.irq with rxie := s.neg.cmdWord.getLsbD 5 } }
  | .negotiateCmd => s

/-- The descriptor registers after a successful negotiation (`42_negotiation.md` R103). -/
def ringsOf (gL gR : Desc) : Rings :=
  { ldesc := gL.desc, lbase := gL.base, lcap := BitVec.ofNat 32 gL.cap.toNat
    rdesc := gR.desc, rbase := gR.base, rcap := BitVec.ofNat 32 gR.cap.toNat }

/-- NEG_SUCCESS(gL, gR) (`42_negotiation.md` R103). -/
def State.negSuccess (gL gR : Desc) (s : State) : State :=
  State.complete <| State.finishOpen <| State.negOver
    { s with status := { s.status with rv := true, hwf := false }, rings := ringsOf gL gR }

/-- What NEG_EVAL has seen: the data word of each buffer tag, and whether END_OF_SETUP came
(`42_negotiation.md` R102). -/
structure Seen where
  loc : Option Word
  rem : Option Word
  fin : Bool
deriving DecidableEq, Repr

/-- Nothing seen yet. -/
def Seen.start : Seen := { loc := none, rem := none, fin := false }

/-- Judge one entry: an unknown tag or a tag seen before fails the negotiation (`42_negotiation.md` R102). -/
def Seen.judge (sn : Seen) (e : Entry) : Except Detail Seen :=
  match decodeEntry e with
  | .ok (.localBufferDesc d) => if sn.loc.isSome then .error .negDupTag else .ok { sn with loc := some d }
  | .ok (.remoteBufferDesc d) => if sn.rem.isSome then .error .negDupTag else .ok { sn with rem := some d }
  | .ok (.endOfSetup _) => if sn.fin then .error .negDupTag else .ok { sn with fin := true }
  | _ => .error .negUnknownTag

/-- Judge entries in entry order; the first failure wins (`42_negotiation.md` R102, `60_exceptions.md` R156). -/
def Seen.judgeAll (sn : Seen) : List Entry → Except Detail Seen
  | [] => .ok sn
  | e :: es =>
    match sn.judge e with
    | .ok sn' => sn'.judgeAll es
    | .error d => .error d

/-- The two capacity checks, local first (`42_negotiation.md` R102). -/
def judgeCaps (gL gR : Desc) : Except Detail (Desc × Desc) :=
  if !gL.valid then .error .negBadLocalCap
  else if !gR.valid then .error .negBadRemoteCap
  else .ok (gL, gR)

/-- NEG_EVAL as a pure judgement of the entries (`42_negotiation.md` R102). Three entries that pass `judgeAll` hold all
three tags, so the last line is reached by no list of three entries (log 22). -/
def negJudge (hdr : Nat) (es : List Entry) : Except Detail (Desc × Desc) :=
  match Seen.start.judgeAll es with
  | .error d => .error d
  | .ok sn =>
    match sn.loc, sn.rem with
    | some l, some r => judgeCaps (descParse hdr l) (descParse hdr r)
    | _, _ => .error .negUnknownTag

/-- NEG_EVAL (`42_negotiation.md` R102). -/
def State.negEval (s : State) : State :=
  match negJudge s.cfg.rbHdrSize s.neg.ents with
  | .error d => s.negFail d
  | .ok g => s.negSuccess g.1 g.2

/-- The part of NEG_POP after a pop that answered `Ok(e)`: the entry is recorded, and the third entry is followed by
NEG_EVAL in the same step (`42_negotiation.md` R101). Outside NEG_WAIT no entry is consumed, so nothing happens
(log 9). -/
def State.takeEntry (e : Entry) (s : State) : State :=
  match s.fsm with
  | .negWait =>
    let s := { s with neg := { s.neg with ents := s.neg.ents ++ [e] } }
    if s.neg.ents.length = Config.negEntries then s.negEval else s
  | .idle => s
  | .exec => s

/-- NEG_ABORT (`42_negotiation.md` R107): the abandoned command leaves no result; the aborting command completes OK. -/
def State.negAbort (s : State) : State :=
  let cmd := s.neg.abortCmd
  let s := { s.negOver with neg := { s.negOver.neg with abortReq := false } }
  let s := (s.tearDownOpen).setLopc (opcField cmd)
  if opcField cmd = 2 then s.closeEffects.complete else (s.resetEffects (cmd.getLsbD 4)).complete

/-- LOCAL_BUFFER_DESC: the negotiation records the popped entry (`42_negotiation.md` R101, R102). -/
def execLocalBufferDesc (data : Word) (s : State) : Host.Outcome State Fault Refusal :=
  .next (s.takeEntry { cmd := tagLocal, data := data })

/-- REMOTE_BUFFER_DESC: the negotiation records the popped entry (`42_negotiation.md` R101, R102). -/
def execRemoteBufferDesc (data : Word) (s : State) : Host.Outcome State Fault Refusal :=
  .next (s.takeEntry { cmd := tagRemote, data := data })

/-- END_OF_SETUP: the negotiation records the popped entry; its data word is not used (`42_negotiation.md` R101,
R102). -/
def execEndOfSetup (data : Word) (s : State) : Host.Outcome State Fault Refusal :=
  .next (s.takeEntry { cmd := tagEnd, data := data })

/-- NEGOTIATE (`42_negotiation.md` R99). -/
def execNegotiate (s : State) : Host.Outcome State Fault Refusal :=
  .next (s.atIdle (State.withOpen 0x4 fun s => State.negStart .negotiateCmd (s.acceptCmd .negotiate)))

/-- The body of NEGPEND on an open socket: RLEN takes the pending flag (`42_negotiation.md` R108). -/
def State.negPendResult (s : State) : State :=
  State.complete { s with results := { s.results with rlen := if s.fifoPending then 1 else 0 } }

/-- NEGPEND (`42_negotiation.md` R108). -/
def execNegPend (s : State) : Host.Outcome State Fault Refusal :=
  .next (s.atIdle (State.withOpen 0x3 fun s => (s.acceptCmd .negPend).negPendResult))

end Sys2Proof.Machine
end

