-- ==== Sys2Proof/Machine/Session.lean ====
section
/-! DEFINITION. The session commands OPEN, CLOSE and RESET (`45_session.md`). -/

namespace Sys2Proof.Machine

/-- OPEN on an idle controller (`45_session.md` R142): `Parameter(ALREADY_OPEN)` on an open socket; else cmdWord keeps
the CMD word and the negotiation starts. -/
def State.openIdle (rxie : Bool) (s : State) : State :=
  let s := s.setLopc 0x1
  if s.status.isOpen then s.raise .alreadyOpen
  else State.negStart .openCmd (s.acceptCmd (.openSocket rxie))

/-- OPEN (`45_session.md` R142). -/
def execOpenSocket (rxie : Bool) (s : State) : Host.Outcome State Fault Refusal :=
  .next (s.atIdle (State.openIdle rxie))

/-- CLOSE (`45_session.md` R144; in NEG_WAIT the abort of `42_negotiation.md` R107). -/
def execClose (s : State) : Host.Outcome State Fault Refusal :=
  .next (s.atIdleOrAbort .close (State.withOpen 0x2 fun s => (s.acceptCmd .close).closeEffects.complete))

/-- RESET (`45_session.md` R146; in NEG_WAIT the abort of `42_negotiation.md` R107). -/
def execReset (both : Bool) (s : State) : Host.Outcome State Fault Refusal :=
  .next (s.atIdleOrAbort (.reset both)
    (State.withOpen 0x5 fun s => ((s.acceptCmd (.reset both)).resetEffects both).complete))

end Sys2Proof.Machine
end

