-- ==== Sys2Proof/Machine/Transfer.lean ====
section
/-! DEFINITION. What WRITE and READ share while `fsm` is EXEC: the entry into EXEC, cursor loads, data accesses in any
order, the publishing release write and the signal (`20_memory.md` R42, R50, R59, R62). -/

namespace Sys2Proof.Machine

/-- Enter EXEC: the first primitive is the acquire read (`20_memory.md` R62). -/
def State.enterExec (cmd : XferCmd) (s : State) : State :=
  { s.beginCmd with
    fsm := .exec
    xfer := { s.xfer with cmd := cmd, phase := .loadPeer, todo := [] } }

/-- A memory access got an error response (`20_memory.md` R59): the command completes with
`HardwareState(BUS_ERROR)` and sets HWF. DESIGN CHOICE (log 12): where it was a read or a plain data write the access is
recorded as no event, so it is in no data race and has no order. -/
def State.busFail (s : State) : State := s.raiseHwf .busError

/-- Move to the next primitive of the running command. -/
def State.setPhase (p : Phase) (s : State) : State := { s with xfer := { s.xfer with phase := p } }

/-- Start the data accesses: the pending list, and the ring position after the payload. -/
def State.startData (todo : List DataOp) (pos : Nat) (s : State) : State :=
  { s with xfer := { s.xfer with todo := todo, pos := pos, phase := .data } }

/-- After a data access: the accesses left; the publish follows the last one. -/
def State.leave (todo : List DataOp) (s : State) : State :=
  { s with xfer := { s.xfer with todo := todo, phase := if todo.isEmpty then .publish else .data } }

/-- A 32-bit read of the running command at `a`, as one event: a cursor load, or READ's length field. The value is kept
by `keep`; its free bytes are those of `State.cmdMarks`. -/
def State.loadWord (kind : EventKind) (g : RingView) (race : BitVec 4) (a : Word) (keep : Word → Xfer → Xfer)
    (s : State) : State :=
  let m := s.cmdMarks g race a
  let v := s.wordRead a m
  { s.loadBytes .controller kind a (wordBytes m v) with xfer := keep v s.xfer }

/-- Perform the pending access at place `i` of the list. The byte is free where areas of the command overlap
(`20_memory.md` R47) and when the access races (R53). -/
def State.performOp (race : Bool) (i : Nat) (op : DataOp) (s : State) : State :=
  match op with
  | .put dst b overlap =>
    let m : Mark := { race := race, overlap := overlap }
    (s.storeBytes .controller .plainWrite dst [{ val := s.byteWritten b 0 m, mark := m }]).leave
      (s.xfer.todo.eraseIdx i)
  | .copy src dst srcOverlap dstOverlap =>
    let m : Mark := { race := race, overlap := srcOverlap }
    let v := s.byteRead src 0 m
    (s.loadBytes .controller .plainRead src [{ val := v, mark := m }]).leave
      (s.xfer.todo.set i (.put dst v dstOverlap))
  | .header src k overlap =>
    let m : Mark := { race := race, overlap := overlap }
    let v := s.byteRead src 0 m
    let s' := s.loadBytes .controller .plainRead src [{ val := v, mark := m }]
    let ident := if k < 16 then s.xfer.ident.setByte k v else s.xfer.ident
    State.leave (s.xfer.todo.eraseIdx i) { s' with xfer := { s'.xfer with ident := ident } }

/-- One data access: any pending one may be next (`20_memory.md` R42, R50, `93_implementation_defined.md` I22; log 10).
An access that gets an error response changes no byte and is recorded as no event (log 12). With none pending the publish comes next (log 22: no
reachable state is in this phase with none pending). -/
def State.dataStep (c : CtlChoice) (s : State) : State :=
  let i := c.pick % s.xfer.todo.length
  match s.xfer.todo[i]? with
  | none => s.setPhase .publish
  | some op => if c.busError then s.busFail else s.performOp (c.race.getLsbD 0) i op

/-- The publishing release write of cursor word `a` of ring `g` (`43_write.md` R124, `44_read.md` R139). On an error
response the word holds any value afterwards, and the access is recorded as a plain write (`20_memory.md` R59,
log 12). -/
def State.publishStep (c : CtlChoice) (g : RingView) (a : Word) (v : Word) (s : State) : State :=
  if c.busError then
    (s.storeBytes .controller .plainWrite a (wordBytes (fun _ => Mark.clear) s.freeWord)).busFail
  else
    let m := s.cmdMarks g c.race a
    (s.storeBytes .controller .relWrite a (wordBytes m (s.wordWritten v m))).setPhase .signal

/-- `Mbx.Signal()` (`60_exceptions.md` R165): one software-interrupt event for the partner, delivered later. -/
def State.signalPartner (s : State) : State :=
  { s.emit .controller .signal 0 [] with mbx := { s.mbx with sigToPartner := s.mbx.sigToPartner + 1 } }

end Sys2Proof.Machine
end

