-- ==== Sys2Proof/Machine/Write.lean ====
section
/-! DEFINITION. WRITE (`43_write.md`): the command word's step, and the controller steps of its pseudocode (R114). -/

namespace Sys2Proof.Machine

/-- The register-only checks of WRITE, in order (`43_write.md` R114, R115), on an open socket. -/
def State.writeChecks (s : State) : Option Detail :=
  if !s.status.rv then some .notNegotiated
  else if s.status.hwf then some .hwfLatched
  else if s.args.addr = 0 then some .nullAddr
  else if s.args.len = 0 then some .zeroLen
  else if Config.rbMaxPayloadLen < s.args.len.toNat then some .tooLong
  else none

/-- WRITE on an idle controller with an open socket: the first failing check raises, else EXEC begins. -/
def State.writeStart (s : State) : State :=
  match s.writeChecks with
  | some d => s.raise d
  | none => (s.acceptCmd .write).enterExec .write

/-- WRITE (`43_write.md` R114): the step of the CMD write. -/
def execWrite (s : State) : Host.Outcome State Fault Refusal :=
  .next (s.atIdle (State.withOpen 0x6 State.writeStart))

/-- The first 24 bytes of the block: L = 20 + P, the recipient id, and the reserved word 0 (`43_write.md` R120). -/
def State.blockHead (s : State) : List Byte :=
  le32 (BitVec.ofNat 32 (Config.msgHdrSize + s.args.len.toNat)) ++ s.args.id.bytes ++ le32 0

/-- The write of block byte `i`, with value `b` (`43_write.md` R120, R122). -/
def State.writeHeadOp (s : State) (w : Nat) (b : Byte) (i : Nat) : DataOp :=
  let dst := s.localRing.byteAddr s.cfg.rbHdrSize w i
  .put dst b (s.overlapped s.localRing dst)

/-- The copy of payload byte `i` from the source buffer to block offset 24 + i (`43_write.md` R120, R122). -/
def State.writePayloadOp (s : State) (w i : Nat) : DataOp :=
  let src := s.args.addr + BitVec.ofNat 32 i
  let dst := s.localRing.byteAddr s.cfg.rbHdrSize w (required 0 + i)
  .copy src dst (s.overlapped s.localRing src) (s.overlapped s.localRing dst)

/-- All data accesses of WRITE, in program order (`43_write.md` R114, steps 6, R120). -/
def State.writePlan (s : State) (w : Nat) : List DataOp :=
  s.blockHead.zipIdx.map (fun e => s.writeHeadOp w e.1 e.2)
    ++ (List.range s.args.len.toNat).map (s.writePayloadOp w)

/-- WRITE's second primitive and the checks after it: the plain read of local.writeIndex, the cursor check, the space
test (`43_write.md` R116 to R118). -/
def State.writeLoadOwn (race : BitVec 4) (s : State) : State :=
  let g := s.localRing
  let s := s.loadWord .plainRead g race g.widxAddr fun v x => { x with w := v }
  let r := s.xfer.r
  let w := s.xfer.w
  if !(cursorOK r g.cap && cursorOK w g.cap) then s.raiseHwf .cursorInvalid
  else if freeSpace w.toNat r.toNat g.cap < required s.args.len.toNat + Config.rbAlignment then
    s.raise .wrNoRoom
  else s.startData (s.writePlan w.toNat) (g.advance w.toNat (required s.args.len.toNat))

/-- WRITE's first primitive: the acquire read of local.readIndex (`43_write.md` R116). -/
def State.writeLoadPeer (race : BitVec 4) (s : State) : State :=
  let g := s.localRing
  s.loadWord .acqRead g race g.ridxAddr fun v x => { x with r := v, phase := .loadOwn }

/-- The value WRITE publishes: the end position, rounded up (`43_write.md` R123). -/
def State.writePublished (s : State) : Word := BitVec.ofNat 32 (alignPos s.xfer.pos s.localRing.cap)

/-- One controller step of a WRITE in EXEC (`43_write.md` R114). The phase of READ's length field is not WRITE's: no
reachable state has it, and it ends the data accesses (log 22). -/
def State.writeStep (c : CtlChoice) (s : State) : State :=
  match s.xfer.phase with
  | .loadPeer => if c.busError then s.busFail else s.writeLoadPeer c.race
  | .loadOwn => if c.busError then s.busFail else s.writeLoadOwn c.race
  | .loadLen => s.setPhase .publish
  | .data => s.dataStep c
  | .publish => s.publishStep c s.localRing s.localRing.widxAddr s.writePublished
  | .signal => s.signalPartner.complete

/-- The ring addresses of the block of a WRITE, which a reset in mid-transfer leaves with any value
(`93_implementation_defined.md` I20). -/
def State.writeTargets (s : State) : List Word :=
  (List.range (required s.args.len.toNat)).map (s.localRing.byteAddr s.cfg.rbHdrSize s.xfer.w.toNat)

end Sys2Proof.Machine
end

