-- ==== Sys2Proof/Machine/Read.lean ====
section
/-! DEFINITION. READ (`44_read.md`): the command word's step, and the controller steps of its pseudocode (R127). -/

namespace Sys2Proof.Machine

/-- The register-only checks of READ, in order (`44_read.md` R127, R128), on an open socket. -/
def State.readChecks (s : State) : Option Detail :=
  if !s.status.rv then some .notNegotiated
  else if s.status.hwf then some .hwfLatched
  else if s.args.addr = 0 then some .nullAddr
  else none

/-- READ on an idle controller with an open socket: the first failing check raises, else EXEC begins. -/
def State.readStart (s : State) : State :=
  match s.readChecks with
  | some d => s.raise d
  | none => (s.acceptCmd .read).enterExec .read

/-- READ (`44_read.md` R127): the step of the CMD write. -/
def execRead (s : State) : Host.Outcome State Fault Refusal :=
  .next (s.atIdle (State.withOpen 0x7 State.readStart))

/-- READ's first primitive: the acquire read of remote.writeIndex (`44_read.md` R129). -/
def State.readLoadPeer (race : BitVec 4) (s : State) : State :=
  let g := s.remoteRing
  s.loadWord .acqRead g race g.widxAddr fun v x => { x with w := v, phase := .loadOwn }

/-- The available data of the running READ (`44_read.md` R131). -/
def State.readAvail (s : State) : Nat := availData s.xfer.r.toNat s.xfer.w.toNat s.remoteRing.cap

/-- READ's second primitive and the checks after it: the plain read of remote.readIndex, the cursor check, the empty
test and the straddle test (`44_read.md` R129 to R133). -/
def State.readLoadOwn (race : BitVec 4) (s : State) : State :=
  let g := s.remoteRing
  let s := s.loadWord .plainRead g race g.ridxAddr fun v x => { x with r := v }
  let r := s.xfer.r
  if !(cursorOK r g.cap && cursorOK s.xfer.w g.cap) then s.raiseHwf .cursorInvalid
  else if s.readAvail < 4 then s.raise .rdEmpty
  else if g.cap < r.toNat + 4 then s.raise .rdLenStraddle
  else s.setPhase .loadLen

/-- The payload length P = L - 20 of the running READ (`44_read.md` R127). -/
def State.readPayloadLen (s : State) : Nat := s.xfer.len.toNat - Config.msgHdrSize

/-- The read of message header byte `k` at block offset 4 + k (`44_read.md` R137, R138). -/
def State.readHeaderOp (s : State) (k : Nat) : DataOp :=
  let src := s.remoteRing.byteAddr s.cfg.rbHdrSize s.xfer.r.toNat (4 + k)
  .header src k (s.overlapped s.remoteRing src)

/-- The copy of payload byte `i` from block offset 24 + i to the destination (`44_read.md` R137, R138). -/
def State.readPayloadOp (s : State) (i : Nat) : DataOp :=
  let src := s.remoteRing.byteAddr s.cfg.rbHdrSize s.xfer.r.toNat (required 0 + i)
  let dst := s.args.addr + BitVec.ofNat 32 i
  .copy src dst (s.overlapped s.remoteRing src) (s.overlapped s.remoteRing dst)

/-- All data accesses of READ after the length field, in program order (`44_read.md` R127, step 8). The reserved header
word is read and its value discarded, as R137 allows. -/
def State.readPlan (s : State) : List DataOp :=
  (List.range Config.msgHdrSize).map s.readHeaderOp ++ (List.range s.readPayloadLen).map s.readPayloadOp

/-- READ's read of the length field and the checks after it (`44_read.md` R134 to R136). -/
def State.readLoadLen (race : BitVec 4) (s : State) : State :=
  let g := s.remoteRing
  let a := g.dataAddr s.cfg.rbHdrSize s.xfer.r.toNat
  let s := s.loadWord .lenRead g race a fun v x => { x with len := v }
  let l := s.xfer.len
  if s.readAvail < l.toNat + 4 || l.toNat < Config.msgHdrSize then s.raise .rdBadLength
  else if s.args.len.toNat < s.readPayloadLen then s.raise .rdDstTooSmall
  else s.startData s.readPlan (g.advance s.xfer.r.toNat (4 + l.toNat))

/-- The value READ publishes: the end position, rounded up (`44_read.md` R139). -/
def State.readPublished (s : State) : Word := BitVec.ofNat 32 (alignPos s.xfer.pos s.remoteRing.cap)

/-- READ's completion step writes RID0..RID3 and RLEN (`44_read.md` R127, step 10). -/
def State.readResults (s : State) : State :=
  { s with results := { rid := s.xfer.ident, rlen := BitVec.ofNat 32 s.readPayloadLen } }

/-- One controller step of a READ in EXEC (`44_read.md` R127). -/
def State.readStep (c : CtlChoice) (s : State) : State :=
  match s.xfer.phase with
  | .loadPeer => if c.busError then s.busFail else s.readLoadPeer c.race
  | .loadOwn => if c.busError then s.busFail else s.readLoadOwn c.race
  | .loadLen => if c.busError then s.busFail else s.readLoadLen c.race
  | .data => s.dataStep c
  | .publish => s.publishStep c s.remoteRing s.remoteRing.ridxAddr s.readPublished
  | .signal => s.signalPartner.readResults.complete

/-- The destination addresses of a READ, which a reset in mid-transfer leaves with any value
(`93_implementation_defined.md` I20). -/
def State.readTargets (s : State) : List Word :=
  (List.range s.readPayloadLen).map fun i => s.args.addr + BitVec.ofNat 32 i

end Sys2Proof.Machine
end

