-- ==== Sys2Proof/Machine/Dispatch.lean ====
section
/-! DEFINITION. One arm per instruction. A command's meaning is the effect of its CMD write in any controller state; a
tag's meaning is the effect of its popped FIFO entry (log 9). -/

namespace Sys2Proof.Machine

def exec (i : Instr) (s : State) : Host.Outcome State Fault Refusal :=
  match i with
  | .openSocket rxie => Sys2Proof.Machine.execOpenSocket rxie s
  | .close => Sys2Proof.Machine.execClose s
  | .negPend => Sys2Proof.Machine.execNegPend s
  | .negotiate => Sys2Proof.Machine.execNegotiate s
  | .reset both => Sys2Proof.Machine.execReset both s
  | .write => Sys2Proof.Machine.execWrite s
  | .read => Sys2Proof.Machine.execRead s
  | .localBufferDesc data => Sys2Proof.Machine.execLocalBufferDesc data s
  | .remoteBufferDesc data => Sys2Proof.Machine.execRemoteBufferDesc data s
  | .endOfSetup data => Sys2Proof.Machine.execEndOfSetup data s

end Sys2Proof.Machine
end

