-- ==== Sys2Proof/Machine/Agents.lean ====
section
/-! DEFINITION. The steps of the five agents (`70_reset_and_hazards.md` R190): the controller's next step, the
host's register-port and memory accesses, the partner's acts, the mailbox's deliveries, and the reset input. -/

namespace Sys2Proof.Machine

/-! ### The controller -/

/-- The step after a popped entry: its decoded instruction is executed; an entry with an unknown tag is recorded too,
for NEG_EVAL to judge (`42_negotiation.md` R101, R102). -/
def State.receive (e : Entry) (s : State) : Host.Outcome State Fault Refusal :=
  match decodeEntry e with
  | .ok i => exec i s
  | .error _ => .next (s.takeEntry e)

/-- A pop that answered `Err`: the FIFO then holds a suffix of its contents, a free value (`60_exceptions.md` R165), and
the negotiation fails with NEG_FIFO_ERROR (`42_negotiation.md` R101). -/
def State.popFailed (s : State) : State :=
  let inbound := s.mbx.inbound.drop (Config.freeDrop s.ghost.draws)
  State.negFail .negFifoError { s.drawn 1 with mbx := { s.mbx with inbound := inbound } }

/-- The number of the oldest entry in the inbound FIFO: how many entries have entered it and are in it no more. -/
def State.headNo (s : State) : Nat := s.ghost.entered.length - s.mbx.inbound.length

/-- A pop that answered `Ok(e)`: the oldest entry leaves the FIFO (`60_exceptions.md` R165). -/
def State.popped (e : Entry) (es : List Entry) (s : State) : State :=
  { s.emit .controller (.pop s.headNo) 0 (entryBytes e) with mbx := { s.mbx with inbound := es } }

/-- NEG_POP (`42_negotiation.md` R101): the abort first, then a pending timeout, then the pop; with none of them the
controller holds. -/
def State.negPop (c : CtlChoice) (s : State) : Host.Outcome State Fault Refusal :=
  if s.neg.abortReq then .next s.negAbort
  else if s.neg.timeoutEv then .next (s.negFail .negTimeout)
  else
    match s.mbx.inbound with
    | [] => .next s
    | e :: es => if c.popErr && s.cfg.popMayFail then .next s.popFailed else (s.popped e es).receive e

/-- One controller step: none in IDLE, NEG_POP in NEG_WAIT, the next primitive of WRITE or READ in EXEC
(`10_state.md` R26, `20_memory.md` R62). -/
def State.controllerTurn (c : CtlChoice) (s : State) : Host.Outcome State Fault Refusal :=
  match s.fsm with
  | .idle => .next s
  | .negWait => s.negPop c
  | .exec =>
    match s.xfer.cmd with
    | .write => .next (s.writeStep c)
    | .read => .next (s.readStep c)

/-! ### 32-bit accesses of the host and the partner -/

/-- An acquire or release access is one only at a cursor word (`20_memory.md` R49); elsewhere it is the plain access
(log 1). -/
def State.cursorKind (k plain : EventKind) (a : Word) (s : State) : EventKind := if s.cursorAccess k a 4 then k else plain

/-- The value of an agent's 32-bit read. -/
def State.agentRead32 (a : Word) (race : BitVec 4) (s : State) : Word := s.wordRead a (raceMarks race)

/-- An agent's 32-bit read, plain or acquire. -/
def State.agentLoad32 (agent : Agent) (k : EventKind) (a : Word) (race : BitVec 4) (s : State) : State :=
  s.loadBytes agent (s.cursorKind k .plainRead a) a (wordBytes (raceMarks race) (s.agentRead32 a race))

/-- An agent's 32-bit write, plain or release. -/
def State.agentStore32 (agent : Agent) (k : EventKind) (a : Word) (v : Word) (race : BitVec 4) (s : State) : State :=
  s.storeBytes agent (s.cursorKind k .plainWrite a) a (wordBytes (raceMarks race) (s.wordWritten v (raceMarks race)))

/-! ### The host -/

/-- Answer the host's access (log 16). -/
def State.respond (r : HostResp) (s : State) : State := { s with env := { s.env with hostResp := r } }

/-- An argument register's write: honoured at BUSY = 0, else ignored with OVR set (`10_state.md` R15, rule 5). -/
def State.writeArg (f : Args → Args) (s : State) : State :=
  if s.busy then s.overrun else { s with args := f s.args }

/-- A write to a register other than CMD (`10_state.md` R15, R16, R20): read-only registers ignore it. -/
def State.writeReg (s : State) (r : Reg) (v : Word) : State :=
  match r with
  | .cmd => s
  | .status => if v.getLsbD 5 then { s with status := { s.status with ovr := false } } else s
  | .irqEn => { s with irq := { s.irq with rxie := v.getLsbD 0 } }
  | .irqPend => if v.getLsbD 0 then { s with irq := { s.irq with rxp := false } } else s
  | .id0 => s.writeArg fun a => { a with id := { a.id with w0 := v } }
  | .id1 => s.writeArg fun a => { a with id := { a.id with w1 := v } }
  | .id2 => s.writeArg fun a => { a with id := { a.id with w2 := v } }
  | .id3 => s.writeArg fun a => { a with id := { a.id with w3 := v } }
  | .addr => s.writeArg fun a => { a with addr := v }
  | .len => s.writeArg fun a => { a with len := v }
  | .rid0 => s
  | .rid1 => s
  | .rid2 => s
  | .rid3 => s
  | .rlen => s
  | .ldesc => s
  | .lbase => s
  | .lcap => s
  | .rdesc => s
  | .rbase => s
  | .rcap => s
  | .param0 => s
  | .param1 => s

/-- A CMD write: the word is decoded and its instruction executed; an illegal word is `30_encoding.md` R67. -/
def State.cmdWrite (v : Word) (s : State) : Host.Outcome State Fault Refusal :=
  match decodeCmd v with
  | .ok i => exec i s
  | .error _ => .next (s.illegalCmd v)

/-- A 32-bit write at an offset of the register window; at a reserved offset it is ignored (`10_state.md` R15). -/
def State.writeOffset (offset : BitVec 8) (v : Word) (s : State) : Host.Outcome State Fault Refusal :=
  match regAt offset with
  | none => .next s
  | some .cmd => s.cmdWrite v
  | some r => .next (s.writeReg r v)

/-- Take the host's first act off its program. -/
def State.setHostProg (p : List HostAct) (s : State) : State := { s with env := { s.env with hostProg := p } }

/-- The state after the host's act has left its program and its register write is answered. -/
def State.hostWrote (rest : List HostAct) (s : State) : State := (s.setHostProg rest).respond .done

/-- A register read is answered with the value; a read of STATUS that shows BUSY = 0 is recorded, since the host's later
accesses come after the command (`20_memory.md` R51, log 20), also after one that reset abandoned (log 28). -/
def State.hostRead (acc : Access) (s : State) : State :=
  let t := s.respond (.data (s.readOffset acc.offset))
  if acc.offset = 0x04 ∧ s.busy = false then t.emit .host .idleRead 0 [] else t

/-- The host's 32-bit read, answered with the value read. -/
def State.hostLoad32 (k : EventKind) (a : Word) (race : BitVec 4) (s : State) : State :=
  (s.respond (.data (s.agentRead32 a race))).agentLoad32 .host k a race

/-- One act of the host. A register access that is not an aligned 32-bit access is not performed and gets an error
response (`10_state.md` R15); a poll whose value has not come yet stays the next act (`30_encoding.md` R78). -/
def State.hostAct (a : HostAct) (rest : List HostAct) (s : State) : Host.Outcome State Fault Refusal :=
  match a with
  | .regRead acc =>
    if acc.wf then .next ((s.setHostProg rest).hostRead acc)
    else .next ((s.setHostProg rest).respond .error)
  | .regWrite acc v =>
    if acc.wf then (s.hostWrote rest).writeOffset acc.offset v
    else .next ((s.setHostProg rest).respond .error)
  | .poll acc mask value =>
    if acc.wf then
      if s.readOffset acc.offset &&& mask = value then .next ((s.setHostProg rest).hostRead acc)
      else .next (s.hostRead acc)
    else .next ((s.setHostProg rest).respond .error)
  | .load a race =>
    let m : Mark := { race := race, overlap := false }
    let v := s.byteRead a 0 m
    .next (((s.setHostProg rest).respond (.byte v)).loadBytes .host .plainRead a [{ val := v, mark := m }])
  | .store a b race =>
    let m : Mark := { race := race, overlap := false }
    .next ((s.hostWrote rest).storeBytes .host .plainWrite a [{ val := s.byteWritten b 0 m, mark := m }])
  | .load32 a race => .next ((s.setHostProg rest).hostLoad32 .plainRead a race)
  | .store32 a v race => .next ((s.hostWrote rest).agentStore32 .host .plainWrite a v race)
  | .loadAcq a race => .next ((s.setHostProg rest).hostLoad32 .acqRead a race)
  | .storeRel a v race => .next ((s.hostWrote rest).agentStore32 .host .relWrite a v race)

/-- The host's turn: its next act, or nothing when its program has ended. -/
def State.hostTurn (s : State) : Host.Outcome State Fault Refusal :=
  match s.env.hostProg with
  | [] => .next s
  | a :: rest => s.hostAct a rest

/-! ### The partner -/

/-- Take the partner's first act off its program. -/
def State.setPartnerProg (p : List PartnerAct) (s : State) : State :=
  { s with env := { s.env with partnerProg := p } }

/-- `Mbx.Clear(both)` by a partner that is a second IRBC: it empties the FIFO the partner pops, and with `both` this
IRBC's inbound FIFO too (`60_exceptions.md` R165, R170, `45_session.md` R148). -/
def Mailbox.clearByPartner (both : Bool) (m : Mailbox) : Mailbox :=
  { m with outbound := [], inbound := if both then [] else m.inbound }

/-- A push takes the next number and its entry enters the inbound FIFO (`60_exceptions.md` R165). -/
def State.pushed (e : Entry) (s : State) : State :=
  State.emit .partner (.push s.ghost.entered.length) 0 (entryBytes e)
    { s with
      mbx := { s.mbx with inbound := s.mbx.inbound ++ [e] }
      ghost := { s.ghost with entered := s.ghost.entered ++ [e] } }

/-- One act of the partner. A push into a full FIFO is not an enabled step: the partner waits
(`60_exceptions.md` R165). A signal on another port than SW_IRQ_PORT is not the partner's signal (R158, log 17). -/
def State.partnerAct (a : PartnerAct) (rest : List PartnerAct) (s : State) : State :=
  match a with
  | .push e =>
    if s.mbx.inbound.length < s.cfg.mboxFifoDepth then (s.setPartnerProg rest).pushed e else s
  | .signal port =>
    if port = s.cfg.swIrqPort then
      { s.setPartnerProg rest with mbx := { s.mbx with sigFromPartner := s.mbx.sigFromPartner + 1 } }
    else s.setPartnerProg rest
  | .load a race =>
    let m : Mark := { race := race, overlap := false }
    (s.setPartnerProg rest).loadBytes .partner .plainRead a [{ val := s.byteRead a 0 m, mark := m }]
  | .store a b race =>
    let m : Mark := { race := race, overlap := false }
    (s.setPartnerProg rest).storeBytes .partner .plainWrite a [{ val := s.byteWritten b 0 m, mark := m }]
  | .load32 a race => (s.setPartnerProg rest).agentLoad32 .partner .plainRead a race
  | .store32 a v race => (s.setPartnerProg rest).agentStore32 .partner .plainWrite a v race
  | .loadAcq a race => (s.setPartnerProg rest).agentLoad32 .partner .acqRead a race
  | .storeRel a v race => (s.setPartnerProg rest).agentStore32 .partner .relWrite a v race
  | .popOutbound => { s.setPartnerProg rest with mbx := { s.mbx with outbound := s.mbx.outbound.tail } }
  | .clear both => { s.setPartnerProg rest with mbx := s.mbx.clearByPartner both }

/-- The partner's turn: its next act, or nothing when its program has ended. -/
def State.partnerTurn (s : State) : State :=
  match s.env.partnerProg with
  | [] => s
  | a :: rest => s.partnerAct a rest

/-! ### The mailbox, the timeout and reset -/

/-- A software-interrupt event from the partner: it sets RXP if OPEN = 1, else it leaves no trace
(`60_exceptions.md` R158). -/
def State.partnerEvent (s : State) : State :=
  if s.status.isOpen then { s with irq := { s.irq with rxp := true } } else s

/-- The mailbox delivers `extra + 1` of the partner's signals as one event, or all that are left
(`60_exceptions.md` R165, `93_implementation_defined.md` I18). -/
def State.deliverToIrbc (extra : Nat) (s : State) : State :=
  if s.mbx.sigFromPartner = 0 then s
  else
    State.partnerEvent { s with mbx := { s.mbx with sigFromPartner := s.mbx.sigFromPartner - (extra + 1) } }

/-- The mailbox delivers `extra + 1` of the IRBC's signals to the partner as one event, or all that are left
(`60_exceptions.md` R165). -/
def State.deliverToPartner (extra : Nat) (s : State) : State :=
  if s.mbx.sigToPartner = 0 then s
  else
    { s with mbx := { s.mbx with
        sigToPartner := s.mbx.sigToPartner - (extra + 1), partnerIrqs := s.mbx.partnerIrqs + 1 } }

/-- The controller is held in the wait of `42_negotiation.md` R101. -/
def State.held (s : State) : Bool :=
  s.fsm == .negWait && s.mbx.inbound.isEmpty && !s.neg.abortReq && !s.neg.timeoutEv

/-- The timeout event: possible while the timeout is enabled and the controller is held (`42_negotiation.md` R106). -/
def State.timeoutEvent (s : State) : State :=
  if s.cfg.negTimeout && s.held then { s with neg := { s.neg with timeoutEv := true } } else s

/-- The addresses of the transfer a reset abandons while its data accesses run or its publish is still to come
(`93_implementation_defined.md` I20, `70_reset_and_hazards.md` R173, log 13). -/
def State.abandonedTargets (s : State) : List Word :=
  if s.fsm = .exec ∧ (s.xfer.phase = .data ∨ s.xfer.phase = .publish) then
    match s.xfer.cmd with
    | .write => s.writeTargets
    | .read => s.readTargets
  else []

/-- Write a free byte at each address of a list (`93_implementation_defined.md` I20). -/
def State.scramble : List Word → State → State
  | [], s => s
  | a :: as, s => State.scramble as
    (s.storeBytes .controller .plainWrite a [{ val := s.freeByte 0, mark := Mark.clear }])

/-- Every register and internal state element at its reset value (`70_reset_and_hazards.md` R172); shared memory, the
mailbox and the other agents are not touched (R173). -/
def State.resetRegisters (s : State) : State :=
  { s with
    status := Status.atReset
    irq := Irq.atReset
    args := Args.atReset
    results := Results.atReset
    rings := Rings.unset
    fsm := .idle
    neg := Neg.atReset
    xfer := Xfer.atReset }

/-- The reset input (`70_reset_and_hazards.md` R171): any command in progress is abandoned at once. Its events stay in the
record and keep their order (log 20, log 28). -/
def State.resetInput (s : State) : State := (s.scramble s.abandonedTargets).resetRegisters

/-! ### Turns -/

/-- The step of the agent whose turn it is (`70_reset_and_hazards.md` R190). A turn of an agent with no enabled step
changes nothing. -/
def State.takeTurn (t : Turn) (s : State) : Host.Outcome State Fault Refusal :=
  match t with
  | .controller c => s.controllerTurn c
  | .host => s.hostTurn
  | .partner => .next s.partnerTurn
  | .deliverToIrbc extra => .next (s.deliverToIrbc extra)
  | .deliverToPartner extra => .next (s.deliverToPartner extra)
  | .timeout => .next s.timeoutEvent
  | .reset => .next s.resetInput

/-- Take the first turn off the schedule. -/
def State.setSched (ts : List Turn) (s : State) : State := { s with env := { s.env with sched := ts } }

/-- The next step: the turn the schedule names, or the controller's when it names none (log 5). -/
def State.nextTurn (s : State) : Host.Outcome State Fault Refusal :=
  match s.env.sched with
  | [] => s.controllerTurn CtlChoice.plain
  | t :: ts => (s.setSched ts).takeTurn t

/-! ### Placing an instruction where the next step fetches it -/

/-- A CMD word placed as the host's next act, at the host's turn. -/
def State.placeCmd (c : Word) (s : State) : State :=
  { s with env := { s.env with
      sched := .host :: s.env.sched
      hostProg := .regWrite (Access.at32 0x00) c :: s.env.hostProg } }

/-- The state in which the controller is about to pop: a negotiation that is not aborted or timed out, started as OPEN
starts it where none is waiting (log 5). -/
def State.awaitEntry (s : State) : State :=
  match s.fsm with
  | .negWait => { s with neg := { s.neg with abortReq := false, timeoutEv := false } }
  | .idle => State.openIdle false { s with status := { s.status with isOpen := false } }
  | .exec => State.openIdle false { s with status := { s.status with isOpen := false } }

/-- A FIFO entry placed as the oldest of the inbound FIFO, and recorded as having entered it in that place, at the
controller's turn. -/
def State.placeEntry (e : Entry) (s : State) : State :=
  let s := s.awaitEntry
  { s with
    env := { s.env with sched := .controller CtlChoice.plain :: s.env.sched }
    mbx := { s.mbx with inbound := e :: s.mbx.inbound }
    ghost := { s.ghost with entered := s.ghost.entered.take s.headNo ++ e :: s.mbx.inbound } }

/-- The bits of a table row placed where its instruction is fetched: a tag in the inbound FIFO, a CMD word in the host's
next register write. -/
def State.placeTableWord (s : State) (nbits w : Nat) : State :=
  match decodeEntry (tableEntry nbits w) with
  | .ok _ => s.placeEntry (tableEntry nbits w)
  | .error _ => s.placeCmd (tableFirstWord nbits w)

end Sys2Proof.Machine
end

