-- ==== Sys2Proof/Machine/Step.lean ====
section
/-! DEFINITION. One step of the machine, and where its next instruction stands. Both only call Agents.lean. -/

namespace Sys2Proof.Machine

/-- One step: a run interleaves the steps of the agents (`70_reset_and_hazards.md` R190), in the order the state's
schedule gives. -/
def step (s : State) : Host.Outcome State Fault Refusal := s.nextTurn

/-- `s` with the instruction of a table row placed so that the next step runs it (log 5): a command in the host's next
CMD write, a tag in the inbound FIFO of a waiting negotiation. -/
def State.withFetchWord (s : State) (nbits w : Nat) : State := s.placeTableWord nbits w

end Sys2Proof.Machine
end

