-- ==== Sys2Proof/Machine/Consistency.lean ====
section
/-! DEFINITION. The memory consistency model of `20_memory.md` R49 to R53 over finished executions. `step` is the
sequentially consistent interleaving R52 allows as an oracle, with a free value for a byte that races (log 1); these
definitions are the axioms a claim about every consistent execution is judged by, and the last part says which
executions the machine's own trace stands for. -/

namespace Sys2Proof.Machine

/-! ### Events -/

/-- Event kinds that read memory. -/
def EventKind.reads : EventKind → Bool
  | .plainRead => true
  | .lenRead => true
  | .acqRead => true
  | .plainWrite => false
  | .relWrite => false
  | .signal => false
  | .push _ => false
  | .pop _ => false
  | .cmdWrite => false
  | .idleRead => false

/-- Event kinds that write memory. -/
def EventKind.writes : EventKind → Bool
  | .plainWrite => true
  | .relWrite => true
  | .plainRead => false
  | .lenRead => false
  | .acqRead => false
  | .signal => false
  | .push _ => false
  | .pop _ => false
  | .cmdWrite => false
  | .idleRead => false

/-- The place of a kind in one IRBC command (`20_memory.md` R50): the acquire read, then the plain accesses, then the
release write, then the signal. A pop belongs to no WRITE or READ and ranks first; the kinds that are no event of the
IRBC rank with it. -/
def EventKind.rank : EventKind → Nat
  | .push _ => 0
  | .pop _ => 0
  | .cmdWrite => 0
  | .idleRead => 0
  | .acqRead => 1
  | .plainRead => 2
  | .lenRead => 2
  | .plainWrite => 2
  | .relWrite => 3
  | .signal => 4

/-- The event is a push. -/
def EventKind.isPush : EventKind → Bool
  | .push _ => true
  | .plainRead => false
  | .lenRead => false
  | .plainWrite => false
  | .acqRead => false
  | .relWrite => false
  | .signal => false
  | .pop _ => false
  | .cmdWrite => false
  | .idleRead => false

/-- The entries, as bytes, of the pushes among events, in the order of the list. -/
def pushed (es : List Event) : List (List EventByte) := (es.filter fun e => e.kind.isPush).map Event.bytes

/-- An event that accesses memory. -/
def Event.accesses (e : Event) : Prop := e.kind.reads = true ∨ e.kind.writes = true

/-- The byte of an event at address `a`, if it covers it. -/
def Event.byteAt (e : Event) (a : Word) : Option EventByte := e.bytes[(a - e.addr).toNat]?

/-- The event covers the byte at `a`. -/
def Event.covers (e : Event) (a : Word) : Prop := inRun e.addr e.bytes.length a = true

/-- A write of an aligned 32-bit word. -/
def Event.alignedWordWrite (e : Event) : Prop :=
  e.kind.writes = true ∧ e.bytes.length = 4 ∧ e.addr.toNat % 4 = 0

/-- What R49 (`20_memory.md`) says of every event: its byte addresses are distinct, only 32-bit cursor accesses are
acquire reads and release writes, a cursor access is an aligned 32-bit access (R37, R41), and each kind that is no memory
access has its one agent. -/
structure Event.Wf (e : Event) : Prop where
  distinct : e.bytes.length ≤ 2 ^ 32
  cursorOnly : e.kind = .acqRead ∨ e.kind = .relWrite → e.cursor = true
  cursorWord : e.cursor = true → e.bytes.length = 4 ∧ e.addr.toNat % 4 = 0
  pushes : ∀ n, e.kind = .push n → e.agent = .partner
  pops : ∀ n, e.kind = .pop n → e.agent = .controller
  controls : e.kind = .signal ∨ e.kind = .lenRead → e.agent = .controller
  registers : e.kind = .cmdWrite ∨ e.kind = .idleRead → e.agent = .host

/-- Ordered-before of two IRBC events (`20_memory.md` R50, R51): across commands by their numbers, inside a command by
rank, and the length-field read before the one-byte reads that depend on it. -/
def Event.before (e f : Event) : Prop :=
  e.agent = .controller ∧ f.agent = .controller ∧
    (e.cmdNo < f.cmdNo ∨
      (e.cmdNo = f.cmdNo ∧
        (e.kind.rank < f.kind.rank ∨ (e.kind = .lenRead ∧ f.kind = .plainRead ∧ f.bytes.length = 1))))

/-- The host's CMD write that begins a command is ordered before its events, and so before those of later commands
(`20_memory.md` R51, item 1). -/
def Event.starts (e f : Event) : Prop :=
  e.agent = .host ∧ e.kind = .cmdWrite ∧ f.agent = .controller ∧ e.cmdNo ≤ f.cmdNo

/-- A command's events, and so those of earlier commands, are ordered before a STATUS read of the host that shows
BUSY = 0 after it (`20_memory.md` R51, item 2). DESIGN CHOICE (log 28): that holds too of a command that reset abandoned,
of which R51 says nothing, since it does not complete (`70_reset_and_hazards.md` R171, R173). -/
def Event.finishes (e f : Event) : Prop :=
  e.agent = .controller ∧ f.agent = .host ∧ f.kind = .idleRead ∧ e.cmdNo ≤ f.cmdNo

/-- Every ordering the IRBC gives (`20_memory.md` R50, R51). -/
def Event.obBefore (e f : Event) : Prop := e.before f ∨ e.starts f ∨ e.finishes f

/-! ### Executions -/

/-- A finished execution (`20_memory.md` R52). Events are named by their place in the list, in which each agent's events
stand in its program order. -/
structure Execution where
  events : List Event
  /-- The initial memory. -/
  init : Word → Byte
  /-- reads-from: the write that event i's byte at address a reads from; none is the initial memory. -/
  rf : Nat → Word → Option Nat
  /-- modification order of the writes to each byte. -/
  mo : Word → Nat → Nat → Prop
  /-- The partner's own ordering. -/
  obP : Nat → Nat → Prop
  /-- The host's program order restricted to ordered accesses. -/
  obH : Nat → Nat → Prop
  /-- The entries that entered the inbound FIFO before the start, oldest first; they have the numbers from 0. -/
  fifo : List Entry

namespace Execution

/-- Event i of the execution is e. -/
def At (x : Execution) (i : Nat) (e : Event) : Prop := x.events[i]? = some e

/-- Event i writes the byte at a. -/
def WritesAt (x : Execution) (i : Nat) (a : Word) : Prop := ∃ e, x.At i e ∧ e.kind.writes = true ∧ e.covers a

/-- Event i reads the byte at a. -/
def ReadsAt (x : Execution) (i : Nat) (a : Word) : Prop := ∃ e, x.At i e ∧ e.kind.reads = true ∧ e.covers a

/-- Ordered-before as the IRBC gives it (`20_memory.md` R50, R51). -/
def obC (x : Execution) (i j : Nat) : Prop := ∃ e f, x.At i e ∧ x.At j f ∧ e.obBefore f

/-- Synchronises-with (`20_memory.md` R52): a release write read by another agent's acquire read of the same word, and a
partner's push with the IRBC's pop that returns its entry, the two of the same number. DESIGN CHOICE (log 27): R52 does not say what "Q reads from W" means where the
four bytes of Q come from different writes; here all four are W's. -/
def sw (x : Execution) (i j : Nat) : Prop :=
  (∃ e f, x.At i e ∧ x.At j f ∧ e.kind = .relWrite ∧ f.kind = .acqRead ∧ e.agent ≠ f.agent ∧
    e.addr = f.addr ∧ ∀ a, f.covers a → x.rf j a = some i) ∨
  ∃ e f n, x.At i e ∧ x.At j f ∧ e.agent = .partner ∧ f.agent = .controller ∧ e.kind = .push n ∧ f.kind = .pop n

/-- One edge of happens-before. -/
def hbEdge (x : Execution) (i j : Nat) : Prop := x.obC i j ∨ x.obP i j ∨ x.obH i j ∨ x.sw i j

/-- Happens-before: `hb = (ob_C ∪ ob_P ∪ ob_H ∪ sw)+` (`20_memory.md` R52). -/
def hb (x : Execution) : Nat → Nat → Prop := Relation.TransGen x.hbEdge

/-- A data race (`20_memory.md` R53): two accesses to the byte at `a` by different agents, at least one a write, neither
before the other in happens-before, and not both 32-bit cursor accesses. -/
def DataRace (x : Execution) (i j : Nat) (a : Word) : Prop :=
  ∃ e f, x.At i e ∧ x.At j f ∧ e.agent ≠ f.agent ∧ e.covers a ∧ f.covers a ∧ e.accesses ∧ f.accesses ∧
    (e.kind.writes = true ∨ f.kind.writes = true) ∧
    ¬ x.hb i j ∧ ¬ x.hb j i ∧ ¬ (e.cursor = true ∧ f.cursor = true)

/-- Event i's byte at a is in a data race. -/
def Races (x : Execution) (i : Nat) (a : Word) : Prop := ∃ j, x.DataRace i j a

/-! #### What makes an execution (`20_memory.md` R49, R52) -/

/-- mo is a total order of the writes to each byte (`20_memory.md` R52). -/
structure MoTotal (x : Execution) : Prop where
  writes : ∀ a v w, x.mo a v w → x.WritesAt v a ∧ x.WritesAt w a
  irrefl : ∀ a w, ¬ x.mo a w w
  trans : ∀ a u v w, x.mo a u v → x.mo a v w → x.mo a u w
  total : ∀ a v w, x.WritesAt v a → x.WritesAt w a → v ≠ w → x.mo a v w ∨ x.mo a w v

/-- reads-from names a write of that byte. -/
def RfWrites (x : Execution) : Prop := ∀ q a w, x.ReadsAt q a → x.rf q a = some w → x.WritesAt w a

/-- A byte read has the value of the write it reads from, or of the initial memory. Any value is admitted where the read
or that write is in a data race (`20_memory.md` R53) or lies where areas of its command overlap (R47). -/
def RfValues (x : Execution) : Prop :=
  ∀ q e a b, x.At q e → e.kind.reads = true → e.byteAt a = some b → b.mark.overlap = false → ¬ x.Races q a →
    match x.rf q a with
    | none => b.val = x.init a
    | some w => ∀ f c, x.At w f → f.byteAt a = some c → c.mark.overlap = false → ¬ x.Races w a → b.val = c.val

/-- Events i and j are both an agent's, i the earlier in its program. -/
def InOrder (x : Execution) (ag : Agent) (i j : Nat) : Prop :=
  i < j ∧ (∃ e, x.At i e ∧ e.agent = ag) ∧ ∃ e, x.At j e ∧ e.agent = ag

/-- An agent's own ordering is of its own events, in program order; an acquire read is ordered before what follows it, and
a release write and a push after what goes before them (`20_memory.md` R52). DEDUCED (log 1): R52 says that ob_P must
meet R55, whose duties name acquire reads and release writes, and that ob_H holds of ordered accesses. A STATUS read that
shows BUSY = 0, which only the host makes, is ordered before what follows it: a later read sees what the command wrote
(R51, item 2). That the host's writes are ordered before its CMD write is the host's duty (R51, item 1; R180), which an
execution need not keep. -/
structure OwnOrder (x : Execution) (ag : Agent) (ob : Nat → Nat → Prop) : Prop where
  own : ∀ i j, ob i j → x.InOrder ag i j
  acquires : ∀ i j e, x.InOrder ag i j → x.At i e → e.kind = .acqRead → ob i j
  seesIdle : ∀ i j e, x.InOrder ag i j → x.At i e → e.kind = .idleRead → ob i j
  releases : ∀ i j f, x.InOrder ag i j → x.At j f → f.kind = .relWrite ∨ f.kind.isPush = true → ob i j

/-- The orderings of the partner and of the host. -/
structure OwnOrders (x : Execution) : Prop where
  partner : x.OwnOrder .partner x.obP
  host : x.OwnOrder .host x.obH

/-- The inbound FIFO (`20_memory.md` R52, `60_exceptions.md` R165): entries are numbered as they enter it, those that
entered before the start first; pops return entries in that order, each once, a skipped one having left it otherwise; the pop of
number n returns the entry of that number, and it happens-before no push of it. So a pop of an entry that was pushed
names its push. -/
structure PushesPopped (x : Execution) : Prop where
  numbered : ∀ i e n, x.At i e → e.kind = .push n → n = x.fifo.length + (pushed (x.events.take i)).length
  returned : ∀ j f n, x.At j f → f.kind = .pop n → (x.fifo.map entryBytes ++ pushed x.events)[n]? = some f.bytes
  inOrder : ∀ j k f g n m, x.At j f → x.At k g → f.kind = .pop n → g.kind = .pop m → j < k → n < m
  pushFirst : ∀ i j e f n, x.At i e → x.At j f → e.kind = .push n → f.kind = .pop n → ¬ x.hb j i

/-! #### The four axioms (`20_memory.md` R52) -/

/-- Axiom 1: no read reads from a write it happens-before. -/
def NoFutureRead (x : Execution) : Prop :=
  ∀ q a w, x.ReadsAt q a → x.rf q a = some w → ¬ x.hb q w

/-- Axiom 2, coherence. The initial memory counts as older than every write (log 1). -/
structure Coherent (x : Execution) : Prop where
  writesAgree : ∀ a w₁ w₂, x.WritesAt w₁ a → x.WritesAt w₂ a → x.hb w₁ w₂ → x.mo a w₁ w₂
  readsFresh : ∀ a w₂ q, x.WritesAt w₂ a → x.ReadsAt q a → x.hb w₂ q →
    x.rf q a ≠ none ∧ ∀ w, x.mo a w w₂ → x.rf q a ≠ some w

/-- Axiom 3: the four bytes of a 32-bit cursor read, acquire or plain, all read from one write, whenever every write to
those bytes is an aligned 32-bit write. -/
def AtomicCursors (x : Execution) : Prop :=
  ∀ q f, x.At q f → f.kind.reads = true → f.cursor = true →
    (∀ i e a, x.At i e → e.kind.writes = true → e.covers a → f.covers a → e.alignedWordWrite) →
    ∀ a b, f.covers a → f.covers b → x.rf q a = x.rf q b

/-- Axiom 4: mo on each byte is consistent with hb. -/
def MoAgrees (x : Execution) : Prop := ∀ a w₁ w₂, x.mo a w₁ w₂ → ¬ x.hb w₂ w₁

/-- A consistent execution: it is an execution of the IRBC and its environment, and the four axioms hold
(`20_memory.md` R49, R52, R53). -/
structure Consistent (x : Execution) : Prop where
  events : ∀ i e, x.At i e → e.Wf
  moTotal : x.MoTotal
  rfWrites : x.RfWrites
  rfValues : x.RfValues
  ownOrders : x.OwnOrders
  pushesPopped : x.PushesPopped
  noFutureRead : x.NoFutureRead
  coherent : x.Coherent
  atomicCursors : x.AtomicCursors
  moAgrees : x.MoAgrees

/-- Every byte that the environment marked as racing is in a data race of the finished execution (`20_memory.md` R53).
A trace with another race mark stands for no run of the hardware (log 1). -/
def RacesJustified (x : Execution) : Prop :=
  ∀ i e a b, x.At i e → e.byteAt a = some b → b.mark.race = true → x.Races i a

end Execution

/-! ### The machine's own trace -/

/-- The effect of one event on memory. -/
def Event.apply (e : Event) (m : Mem) : Mem :=
  if e.kind.writes then m.writeBytes e.addr (e.bytes.map EventByte.val) else m

/-- The memory after a trace (newest event first) from memory `m`. -/
def replay : List Event → Mem → Mem
  | [], m => m
  | e :: es, m => e.apply (replay es m)

/-- Every byte that an event of the trace (newest first) reads, and that is neither in a race nor in an overlap, has the
value that the older events left in memory `m`. -/
def readsAgree : List Event → Mem → Prop
  | [], _ => True
  | e :: es, m =>
    (e.kind.reads = true → ∀ a b, e.byteAt a = some b → b.mark.free = false → b.val = (replay es m).read8 a) ∧
      readsAgree es m

/-- In a trace (newest first) before which the entries `q` entered the inbound FIFO, every push has the next number, and
every pop returns the entry of its number, one pushed before it or in `q`, of a higher number than the pops before it
(`20_memory.md` R52, `60_exceptions.md` R165). -/
def mailboxAgrees : List Event → List Entry → Prop
  | [], _ => True
  | e :: es, q =>
    (∀ n, e.kind = .push n → n = q.length + (pushed es).length) ∧
      (∀ n, e.kind = .pop n → (q.map entryBytes ++ (pushed es).reverse)[n]? = some e.bytes ∧
        ∀ f ∈ es, ∀ m, f.kind = .pop m → m < n) ∧
      mailboxAgrees es q

/-- In a trace (newest first) no event is ordered-before an older one: the interleaving respects `ob`
(`20_memory.md` R50 to R52). -/
def traceOrdered (t : List Event) : Prop := t.Pairwise fun newer older => ¬ newer.obBefore older

/-- The execution that a trace stands for that starts with memory `m` and before which the entries `q` entered the
inbound FIFO, `t` its events oldest first: a byte reads from the latest earlier write, writes are in trace order, and the host and the partner
perform their acts in program order (log 26). -/
structure Execution.OfTrace (x : Execution) (t : List Event) (m : Mem) (q : List Entry) : Prop where
  events : x.events = t
  init : ∀ a, x.init a = m.read8 a
  fifo : x.fifo = q
  rf : ∀ q a w, x.rf q a = some w ↔ w < q ∧ x.WritesAt w a ∧ ∀ v, w < v → v < q → ¬ x.WritesAt v a
  mo : ∀ a v w, x.mo a v w ↔ v < w ∧ x.WritesAt v a ∧ x.WritesAt w a
  obP : ∀ i j, x.obP i j ↔ x.InOrder .partner i j
  obH : ∀ i j, x.obH i j ↔ x.InOrder .host i j

end Sys2Proof.Machine
end

