-- ==== Sys2Proof/Machine/HostNotation.lean ====
section
/-! DEFINITION. Host programs (`30_encoding.md` R78, R79): the pseudo-commands as the host's acts, and a program's
encoding as a list of triples. -/

namespace Sys2Proof.Machine

/-- The offset of a register (`10_state.md` R14). -/
def Reg.offset (r : Reg) : BitVec 8 :=
  match regMap.find? fun e => e.2 == r with
  | some e => e.1
  | none => 0x3C

/-- `W <reg>, <value>` (`30_encoding.md` R78). -/
def lineW (r : Reg) (v : Word) : HostAct := .regWrite (Access.at32 r.offset) v

/-- `R <reg>` (`30_encoding.md` R78). -/
def lineR (r : Reg) : HostAct := .regRead (Access.at32 r.offset)

/-- `POLL <reg>, <mask>, <value>` (`30_encoding.md` R78). -/
def linePoll (r : Reg) (mask value : Word) : HostAct := .poll (Access.at32 r.offset) mask value

/-- The pseudo-commands (`30_encoding.md` R79). -/
inductive Pseudo where
  | openP (rxie : Bool)
  | closeP
  | negpendP
  | negotiateP
  | resetP (both : Bool)
  | writeP (i0 i1 i2 i3 addr len : Word)
  | readP (addr cap : Word)
  | ackP
  | resultP
deriving DecidableEq, Repr

/-- `W CMD` with a command's word. -/
def lineCmd (i : Instr) : HostAct := lineW .cmd (firstWord i)

/-- `POLL STATUS, 0x1, 0`: wait for BUSY = 0. -/
def lineWait : HostAct := linePoll .status 0x1 0

/-- The expansion of a pseudo-command (`30_encoding.md` R79). -/
def Pseudo.expand : Pseudo → List HostAct
  | .openP rxie => [lineCmd (.openSocket rxie), lineWait]
  | .closeP => [lineCmd .close]
  | .negpendP => [lineCmd .negPend, lineR .rlen]
  | .negotiateP => [lineCmd .negotiate, lineWait]
  | .resetP both => [lineCmd (.reset both)]
  | .writeP i0 i1 i2 i3 addr len =>
    [lineW .id0 i0, lineW .id1 i1, lineW .id2 i2, lineW .id3 i3, lineW .addr addr, lineW .len len,
     lineCmd .write, lineWait]
  | .readP addr cap =>
    [lineW .addr addr, lineW .len cap, lineCmd .read, lineWait,
     lineR .rid0, lineR .rid1, lineR .rid2, lineR .rid3, lineR .rlen]
  | .ackP => [lineW .irqPend 0x1]
  | .resultP => [lineR .status]

/-- A program of pseudo-commands as the host's acts: lines run in order (`30_encoding.md` R78). -/
def expandAll (ps : List Pseudo) : List HostAct := ps.flatMap Pseudo.expand

/-- W or R in a program's encoding (`30_encoding.md` R78). -/
inductive LineOp where
  | w
  | r
deriving DecidableEq, Repr

/-- One triple `(W|R, offset, value)` (`30_encoding.md` R78). -/
structure Triple where
  op : LineOp
  offset : BitVec 8
  value : Word
deriving DecidableEq, Repr

/-- The triple of a register-port act, with `v` the value a read returned; a poll is one R triple for each time it reads
(`30_encoding.md` R78). Memory accesses are no lines of the notation. -/
def hostTriple (v : Word) : HostAct → Option Triple
  | .regWrite acc x => some { op := .w, offset := acc.offset, value := x }
  | .regRead acc => some { op := .r, offset := acc.offset, value := v }
  | .poll acc _ _ => some { op := .r, offset := acc.offset, value := v }
  | .load _ _ => none
  | .store _ _ _ => none
  | .load32 _ _ => none
  | .store32 _ _ _ => none
  | .loadAcq _ _ => none
  | .storeRel _ _ _ => none

end Sys2Proof.Machine
end

