-- ==== Sys2Proof/Safety.lean ====
section
/-! DEFINITION. What a safe state and a safe run are, in the terms the statements use: the invariants the rules
give the socket, the transfer, the mailbox and memory, and runs of the controller. -/

namespace Sys2Proof

/-- A choice with neither a bus error nor a failed pop nor a data race. -/
def CtlChoice.clean (c : CtlChoice) : Prop := c.busError = false ∧ c.popErr = false ∧ c.race = 0

namespace Machine

/-- What `10_state.md` R23 says of one ring's registers while RV = 1, with the parse that gave them
(`40_descriptor.md` R80, R82). -/
structure RingRegsOk (hdr : Nat) (desc base cap : Word) : Prop where
  baseIs : base = (descParse hdr desc).base
  capIs : (cap.toNat : Int) = (descParse hdr desc).cap
  capPos : 0 < cap.toNat
  capAligned : cap.toNat % Config.rbAlignment = 0
  capBound : cap.toNat + hdr ≤ 2 ^ 31
  baseAligned : base.toNat % 32 = 0

/-- The socket is in one of the states of `45_session.md` R149, and STATUS agrees with the internal state. -/
structure SocketInv (s : State) : Prop where
  /-- RV is set only on an open socket (R18, R149). -/
  openOfRv : s.status.rv = true → s.status.isOpen = true
  /-- HWF is set only on an open socket (R19, R149). -/
  openOfHwf : s.status.hwf = true → s.status.isOpen = true
  /-- RXP is set only on an open socket (`60_exceptions.md` R158, `45_session.md` R145). -/
  openOfRxp : s.irq.rxp = true → s.status.isOpen = true
  /-- The descriptor registers are 0 while RV = 0 (`10_state.md` R18). -/
  ringsUnset : s.status.rv = false → s.rings = Rings.unset
  /-- The local ring's registers while RV = 1 (`10_state.md` R23). -/
  localOk : s.status.rv = true → RingRegsOk s.cfg.rbHdrSize s.rings.ldesc s.rings.lbase s.rings.lcap
  /-- The remote ring's registers while RV = 1 (`10_state.md` R23). -/
  remoteOk : s.status.rv = true → RingRegsOk s.cfg.rbHdrSize s.rings.rdesc s.rings.rbase s.rings.rcap
  /-- ERR is the kind of DETAIL (`30_encoding.md` R75). -/
  errOfDetail : s.status.err = s.status.detail.kind
  /-- While a negotiation waits, the rings are unset (`42_negotiation.md` R100). -/
  waitRv : s.fsm = .negWait → s.status.rv = false
  /-- Opening and Renegotiating (`45_session.md` R149). -/
  waitKind : s.fsm = .negWait → (s.status.isOpen = true ↔ s.neg.kind = .negotiateCmd)
  /-- A waiting negotiation has consumed fewer than three entries (`42_negotiation.md` R101). -/
  waitFew : s.fsm = .negWait → s.neg.ents.length < Config.negEntries
  /-- NEGK is 0 when no negotiation is in progress (`10_state.md` R16). -/
  idleEnts : s.fsm ≠ .negWait → s.neg.ents = []
  /-- An abort is requested only while a negotiation waits (`42_negotiation.md` R107). -/
  idleAbort : s.fsm ≠ .negWait → s.neg.abortReq = false
  /-- A timeout event is pending only while a negotiation waits (`42_negotiation.md` R106). -/
  idleTimeout : s.fsm ≠ .negWait → s.neg.timeoutEv = false
  /-- With NEG_TIMEOUT disabled no timeout event comes (`42_negotiation.md` R106). -/
  timeoutEnabled : s.neg.timeoutEv = true → s.cfg.negTimeout = true
  /-- abortCmd is a legal CLOSE or RESET word (`42_negotiation.md` R107). -/
  abortLegal : s.neg.abortReq = true →
    s.neg.abortCmd = firstWord .close ∨ ∃ both, s.neg.abortCmd = firstWord (.reset both)
  /-- A WRITE or READ runs only in the Ready state (`45_session.md` R149). -/
  execReady : s.fsm = .exec → s.status.isOpen = true ∧ s.status.rv = true ∧ s.status.hwf = false

/-- The opcode of the command a negotiation belongs to (`30_encoding.md` R65). -/
def NegKind.opc : NegKind → BitVec 4
  | .openCmd => 0x1
  | .negotiateCmd => 0x4

/-- The opcode of a running data command (`30_encoding.md` R65). -/
def XferCmd.opc : XferCmd → BitVec 4
  | .write => 0x6
  | .read => 0x7

/-- STATUS.LOPC names the command in progress (`10_state.md` R16, R17). -/
structure LopcInv (s : State) : Prop where
  waiting : s.fsm = .negWait → s.status.lopc = s.neg.kind.opc
  running : s.fsm = .exec → s.status.lopc = s.xfer.cmd.opc

/-- The byte address that a pending data access writes, if it writes one. -/
def DataOp.target : DataOp → Option Word
  | .put dst _ _ => some dst
  | .copy _ dst _ _ => some dst
  | .header _ _ _ => none

/-- How many controller steps a pending data access still takes. -/
def DataOp.steps : DataOp → Nat
  | .put _ _ _ => 1
  | .copy _ _ _ _ => 2
  | .header _ _ _ => 1

/-- How many controller steps the pending data accesses still take. -/
def stepsOf (todo : List DataOp) : Nat := (todo.map DataOp.steps).sum

/-- A running WRITE after its checks have passed (`43_write.md` R117, R118, R123). -/
structure WriteRunning (s : State) : Prop where
  lenPos : 0 < s.args.len.toNat
  lenMax : s.args.len.toNat ≤ Config.rbMaxPayloadLen
  rOk : cursorOK s.xfer.r s.localRing.cap = true
  wOk : cursorOK s.xfer.w s.localRing.cap = true
  room : required s.args.len.toNat + Config.rbAlignment
    ≤ freeSpace s.xfer.w.toNat s.xfer.r.toNat s.localRing.cap
  posIs : s.xfer.pos = s.localRing.advance s.xfer.w.toNat (required s.args.len.toNat)
  targets : ∀ op ∈ s.xfer.todo, ∀ a, op.target = some a → a ∈ s.writeTargets
  /-- Each block byte is written once (`20_memory.md` R42). -/
  work : stepsOf s.xfer.todo ≤ 24 + 2 * s.args.len.toNat

/-- A running READ after its cursor checks have passed (`44_read.md` R130, R132, R133). -/
structure ReadChecked (s : State) : Prop where
  rOk : cursorOK s.xfer.r s.remoteRing.cap = true
  wOk : cursorOK s.xfer.w s.remoteRing.cap = true
  avail : 4 ≤ s.readAvail

/-- A running READ after all its checks have passed (`44_read.md` R135, R136). -/
structure ReadRunning (s : State) : Prop where
  checked : ReadChecked s
  lenFits : s.xfer.len.toNat + 4 ≤ s.readAvail
  lenLeast : Config.msgHdrSize ≤ s.xfer.len.toNat
  dstFits : s.readPayloadLen ≤ s.args.len.toNat
  posIs : s.xfer.pos = s.remoteRing.advance s.xfer.r.toNat (4 + s.xfer.len.toNat)
  targets : ∀ op ∈ s.xfer.todo, ∀ a, op.target = some a → a ∈ s.readTargets
  /-- Each header and payload byte is read once (`20_memory.md` R42). -/
  work : stepsOf s.xfer.todo ≤ 20 + 2 * s.readPayloadLen

/-- The position in the running WRITE or READ and its temporaries. -/
def XferInv (s : State) : Prop :=
  s.fsm = .exec →
    s.args.addr ≠ 0 ∧
    (match s.xfer.cmd with
    | .write =>
      s.xfer.phase ≠ .loadLen ∧ 0 < s.args.len.toNat ∧ s.args.len.toNat ≤ Config.rbMaxPayloadLen ∧
        (s.xfer.phase = .data ∨ s.xfer.phase = .publish ∨ s.xfer.phase = .signal → WriteRunning s)
    | .read =>
      (s.xfer.phase = .loadLen → ReadChecked s) ∧
        (s.xfer.phase = .data ∨ s.xfer.phase = .publish ∨ s.xfer.phase = .signal → ReadRunning s)) ∧
    (s.xfer.phase = .data ↔ s.xfer.todo ≠ [])

/-- The inbound FIFO never holds more than its depth (`60_exceptions.md` R165). -/
def FifoInv (s : State) : Prop := s.mbx.inbound.length ≤ s.cfg.mboxFifoDepth

/-- Memory is in its canonical form. -/
def MemInv (s : State) : Prop := Mem.wf s.mem = true

/-- The invariant of the machine. -/
structure MachineInv (s : State) : Prop where
  cfg : s.cfg.Valid
  socket : SocketInv s
  lopc : LopcInv s
  xfer : XferInv s
  fifo : FifoInv s
  mem : MemInv s

/-- The entries that have entered the inbound FIFO: the FIFO holds the latest of them, what the trace pushed comes after
what entered before the start, the trace's pops returned older ones (`20_memory.md` R52, `60_exceptions.md` R165), and
those that a negotiation has popped, and those the rings come from, are among them (`42_negotiation.md` R101, R103). -/
structure EntryInv (s : State) : Prop where
  inFifo : s.mbx.inbound <:+ s.ghost.entered
  agrees : ∃ q, mailboxAgrees s.ghost.trace q ∧
    s.ghost.entered.map entryBytes = q.map entryBytes ++ (pushed s.ghost.trace).reverse
  popped : ∀ e ∈ s.ghost.trace, ∀ n, e.kind = .pop n → n < s.headNo
  recorded : ∀ e ∈ s.neg.ents, e ∈ s.ghost.entered
  rings : s.status.rv = true →
    s.rings.lbase ∈ s.ghost.entered.flatMap Entry.ringBases ∧ s.rings.rbase ∈ s.ghost.entered.flatMap Entry.ringBases

/-- The trace and the running command: every event is one that `20_memory.md` R49 allows, the trace is ordered, every
event belongs to a command that has begun, a STATUS read that showed BUSY = 0 is older than the running command, in
that command the next primitive ranks no lower than those made (R50, R51), and the mailbox's record agrees. -/
structure TraceInv (s : State) : Prop where
  wf : ∀ e ∈ s.ghost.trace, e.Wf
  ordered : traceOrdered s.ghost.trace
  begun : ∀ e ∈ s.ghost.trace, e.agent = .controller → e.cmdNo ≤ s.ghost.cmdNo
  seen : ∀ e ∈ s.ghost.trace, e.kind = .idleRead →
    e.cmdNo ≤ s.ghost.cmdNo ∧ (s.fsm ≠ .idle → e.cmdNo < s.ghost.cmdNo)
  before : ∀ e ∈ s.ghost.trace, e.agent = .controller → e.cmdNo = s.ghost.cmdNo →
    (s.fsm = .negWait → e.kind.rank = 0) ∧
    (s.fsm = .exec →
      (s.xfer.phase = .loadPeer → False) ∧
      (s.xfer.phase = .loadOwn ∨ s.xfer.phase = .loadLen ∨ s.xfer.phase = .data ∨ s.xfer.phase = .publish →
        e.kind.rank ≤ 2) ∧
      (s.xfer.phase = .loadOwn ∨ s.xfer.phase = .loadLen → ¬ (e.kind = .plainRead ∧ e.bytes.length = 1)) ∧
      (s.xfer.phase = .signal → e.kind.rank ≤ 3))
  mailbox : EntryInv s

/-- The state a command leaves that fails in the step of its CMD write: LOPC, ERR and DETAIL, and nothing else
(`00_scope.md` R11, `43_write.md` R115). -/
def State.rejected (opc : BitVec 4) (d : Detail) (s : State) : State :=
  { s with status := { s.status with lopc := opc, err := d.kind, detail := d } }

/-- The record after a 32-bit read `kind` of the running command at `a` that returned `v`: four numbers of free values are
taken (log 4), and there is one event more, the controller's, whose bytes are those of `v`, byte k with mark `m k`
(`20_memory.md` R49; log 20). -/
def State.readRecorded (kind : EventKind) (a : Word) (m : Nat → Mark) (v : Word) (cursor : Bool) (s : State) : Ghost :=
  { s.ghost with
    draws := s.ghost.draws + 4
    trace := { agent := .controller, cmdNo := s.ghost.cmdNo, kind := kind, addr := a, bytes := wordBytes m v,
               cursor := cursor } :: s.ghost.trace }

/-- The event of a 32-bit access of command `n` at `a`, of value `v`, no byte of it in a race or an overlap
(`20_memory.md` R49). -/
def wordEvent (n : Nat) (kind : EventKind) (a v : Word) (cursor : Bool) : Event :=
  { agent := .controller, cmdNo := n, kind := kind, addr := a, bytes := wordBytes (fun _ => Mark.clear) v,
    cursor := cursor }

/-- The event is a plain access of one byte by command `n` (`20_memory.md` R49, R50; log 10). -/
def Event.isDataAccess (n : Nat) (e : Event) : Prop :=
  e.agent = .controller ∧ e.cmdNo = n ∧ (e.kind = .plainRead ∨ e.kind = .plainWrite) ∧ e.bytes.length = 1 ∧
    e.cursor = false

/-- Controller steps with the given choices, one after another, while no other agent moves. -/
def runChoices : List CtlChoice → State → Host.Outcome State Fault Refusal
  | [], s => .next s
  | c :: cs, s =>
    match s.controllerTurn c with
    | .next s' => runChoices cs s'
    | .fault r => .fault r
    | .refused r => .refused r

/-- The next step is the controller's, with choice `c`. -/
def State.controllerMoves (s : State) (c : CtlChoice) : Prop :=
  (s.env.sched = [] ∧ c = CtlChoice.plain) ∨ ∃ ts, s.env.sched = .controller c :: ts

/-- The next step is the host's write of `v` to CMD. -/
def State.hostWritesCmd (s : State) (v : Word) : Prop :=
  ∃ ts acts, s.env.sched = .host :: ts ∧ s.env.hostProg = .regWrite (Access.at32 0x00) v :: acts

/-- The next step is the reset input. -/
def State.resetMoves (s : State) : Prop := ∃ ts, s.env.sched = .reset :: ts

/-- A state a run may start in (`70_reset_and_hazards.md` R190): the IRBC is at reset (R172), for any parameters that
`00_scope.md` R7 admits, and memory, the mailbox and what the host, the partner and the schedule will do are any. The
model's own record has no event; it may name entries of before the start, from which a partner has rings still (log 5,
log 20). -/
structure Initial (s : State) : Prop where
  atReset : s.resetRegisters = s
  cfg : s.cfg.Valid
  fifo : FifoInv s
  mem : MemInv s
  trace : s.ghost.trace = []
  entered : s.mbx.inbound <:+ s.ghost.entered

/-- A state of a run (`70_reset_and_hazards.md` R190): it starts in some initial state and takes steps, which interleave
the agents as its schedule says. -/
inductive Reachable : State → Prop where
  | start {s : State} : Initial s → Reachable s
  | step {s t : State} : Reachable s → Machine.step s = .next t → Reachable t

end Machine

end Sys2Proof
end

