-- ==== Sys2Proof/Certificates/Slice0/Obligations.lean ====
section
/-! DEFINITION. The statements for the provers. Each says which rule of spec/ it formalises. -/

open Sys2Proof Sys2Proof.Machine

/-! ### Encoding -/

/-- Decoding and encoding agree in both directions, for every instruction with every operand: the words an instruction
is decoded from are exactly the words it is encoded as (`30_encoding.md` R63, R64, R65, R69). -/
def Obligations.DecodeAndEncodeAgree : Prop :=
  ∀ (ws : List Word) (i : Instr), decodeWords ws = .ok i ↔ ws = encode i

/-- `30_encoding.md` R65: a word is the command of a row iff `(c & mask) = match`, the rows are the table's, and at most
one row matches any word. -/
def Obligations.OpcodeMapMatchesExactly : Prop :=
  ∀ c : Word,
    (∀ i : Instr, decodeCmd c = .ok i ↔
      (c &&& 0xFFFFFFDF#32 = 0x00000001#32 ∧ i = .openSocket (c.getLsbD 5)) ∨
      (c &&& 0xFFFFFFFF#32 = 0x00000002#32 ∧ i = .close) ∨
      (c &&& 0xFFFFFFFF#32 = 0x00000003#32 ∧ i = .negPend) ∨
      (c &&& 0xFFFFFFFF#32 = 0x00000004#32 ∧ i = .negotiate) ∨
      (c &&& 0xFFFFFFEF#32 = 0x00000005#32 ∧ i = .reset (c.getLsbD 4)) ∨
      (c &&& 0xFFFFFFFF#32 = 0x00000006#32 ∧ i = .write) ∨
      (c &&& 0xFFFFFFFF#32 = 0x00000007#32 ∧ i = .read)) ∧
    ∀ j k : Fin cmdTable.length,
      (cmdTable.get j).accepts c = true → (cmdTable.get k).accepts c = true → j = k

/-- `30_encoding.md` R67: which CMD words are illegal, and what writing one does at BUSY = 0 and at BUSY = 1. -/
def Obligations.IllegalCommandWords : Prop :=
  ∀ c : Word,
    (decodeCmd c = .error .illegalCmd ↔
      (c.extractLsb' 0 4 = 0#4 ∨ 8#4 ≤ c.extractLsb' 0 4 ∨ c.extractLsb' 6 26 ≠ 0#26 ∨
        (c.getLsbD 4 = true ∧ c.extractLsb' 0 4 ≠ 5#4) ∨ (c.getLsbD 5 = true ∧ c.extractLsb' 0 4 ≠ 1#4))) ∧
    (decodeCmd c = .error .illegalCmd → ∀ s : State,
      (s.fsm = .idle → s.writeOffset 0x00 c = .next
        { s with status := { s.status with lopc := c.extractLsb' 0 4, err := .parameter, detail := .illegalCmd } }) ∧
      (s.fsm ≠ .idle → s.writeOffset 0x00 c = .next { s with status := { s.status with ovr := true } }))

/-- `30_encoding.md` R69: the tags are compared as whole words, the data word is carried along, and any other cmd word
is an unknown tag. -/
def Obligations.TagsComparedWhole : Prop :=
  ∀ c d : Word,
    decodeEntry ⟨0xBA5E0001, d⟩ = .ok (.localBufferDesc d) ∧
    decodeEntry ⟨0xBA5E0002, d⟩ = .ok (.remoteBufferDesc d) ∧
    decodeEntry ⟨0xBA5E0003, d⟩ = .ok (.endOfSetup d) ∧
    (c ≠ 0xBA5E0001 → c ≠ 0xBA5E0002 → c ≠ 0xBA5E0003 → decodeEntry ⟨c, d⟩ = .error .unknownTag)

/-- A few words written out from the spec's encodings decode to the instructions they stand for
(`30_encoding.md` R64, R65, R69; `95_test_vectors.md` 2.3, E5, E8, E14). That a single table word equal to a tag is read
as the first word of an entry with data word 0, where R69 gives an entry of two words, is the model's choice (log 25). -/
def Obligations.SampleWordsDecode : Prop :=
  decodeTableWord 32 0x00000021 = some (.openSocket true) ∧
  decodeTableWord 32 0x00000015 = some (.reset true) ∧
  decodeTableWord 32 0x00000006 = some .write ∧
  decodeTableWord 32 0xBA5E0003 = some (.endOfSetup 0) ∧
  decodeWords [0xBA5E0001, 0x20100007] = .ok (.localBufferDesc 0x20100007) ∧
  decodeTableWord 32 0x00000041 = none

/-! ### A step runs the decoded instruction -/

/-- When it is the host's turn and its next act is an aligned 32-bit write of a CMD word that decodes to i, the step is
`exec i`; around it the step only takes the turn and the act and answers the access (log 5; `30_encoding.md` R65). -/
def Obligations.StepRunsTheWrittenCommand : Prop :=
  ∀ (s : State) (ts : List Turn) (acts : List HostAct) (c : Word) (i : Instr),
    s.env.sched = .host :: ts → s.env.hostProg = .regWrite ⟨4, 0x00⟩ c :: acts → decodeCmd c = .ok i →
      step s = exec i
        { s with env := { s.env with sched := ts, hostProg := acts, hostResp := .done } }

/-- When the controller waits in NEG_WAIT with no abort and no timeout pending, and the pop of the oldest inbound entry
does not fail, the step is `exec` of the instruction the entry decodes to; around it the step takes the turn, pops the
entry and records the pop (`42_negotiation.md` R101; log 5, log 20). -/
def Obligations.StepRunsThePoppedEntry : Prop :=
  ∀ (s : State) (ts : List Turn) (ch : CtlChoice) (e : Entry) (es : List Entry) (i : Instr),
    s.env.sched = .controller ch :: ts → s.fsm = .negWait → s.neg.abortReq = false → s.neg.timeoutEv = false →
    s.mbx.inbound = e :: es → (ch.popErr && s.cfg.popMayFail) = false → decodeEntry e = .ok i →
      step s = exec i
        { s with
          env := { s.env with sched := ts }
          mbx := { s.mbx with inbound := es }
          ghost := { s.ghost with trace :=
            ⟨.controller, s.ghost.cmdNo, .pop (s.ghost.entered.length - s.mbx.inbound.length), 0, entryBytes e, false⟩ ::
              s.ghost.trace } }

/-! ### Session commands -/

/-- OPEN at BUSY = 0 (`45_session.md` R142, `42_negotiation.md` R100): on a closed socket it keeps its CMD word, clears RV
and the descriptor registers, and waits; on an open socket it fails with ALREADY_OPEN and nothing else changes. The
CMD write is recorded as the command's first event (`20_memory.md` R51; log 20), and the timeout flag is cleared, which
is the model's (log 14). -/
def Obligations.OpenStartsNegotiation : Prop :=
  ∀ (s : State) (rxie : Bool), s.fsm = .idle →
    (s.status.isOpen = false → exec (.openSocket rxie) s = .next
      { s with
        status := { s.status with lopc := 0x1, rv := false }
        rings := ⟨0, 0, 0, 0, 0, 0⟩
        fsm := .negWait
        neg := { s.neg with
          kind := .openCmd, ents := [], timeoutEv := false
          cmdWord := if rxie then 0x00000021 else 0x00000001 }
        ghost := { s.ghost with
          cmdNo := s.ghost.cmdNo + 1
          trace := ⟨.host, s.ghost.cmdNo + 1, .cmdWrite, 0, [], false⟩ :: s.ghost.trace } }) ∧
    (s.status.isOpen = true → exec (.openSocket rxie) s = .next
      { s with status := { s.status with lopc := 0x1, err := .parameter, detail := .alreadyOpen } })

/-- CLOSE at BUSY = 0 on an open socket (`45_session.md` R144, R145): exactly the effects of CLOSE_EFFECTS, and OK;
cmdWord is the accepted CMD value (`10_state.md` R27, log 6). -/
def Obligations.CloseClearsTheSocket : Prop :=
  ∀ s : State, s.fsm = .idle → s.status.isOpen = true → exec .close s = .next
    { s with
      status := { s.status with
        lopc := 0x2, isOpen := false, rv := false, hwf := false, err := .ok, detail := .none }
      rings := ⟨0, 0, 0, 0, 0, 0⟩
      irq := ⟨false, false⟩
      neg := { s.neg with cmdWord := 0x00000002 } }

/-- RESET at BUSY = 0 on an open socket (`45_session.md` R146, R147): the inbound FIFO is emptied, with BOTH the outbound
FIFO too, RV and HWF and the descriptor registers are cleared, cmdWord is the accepted CMD value (`10_state.md`
R27, log 6), and nothing else changes. -/
def Obligations.ResetForcesRenegotiation : Prop :=
  ∀ (s : State) (both : Bool), s.fsm = .idle → s.status.isOpen = true → exec (.reset both) s = .next
    { s with
      status := { s.status with lopc := 0x5, rv := false, hwf := false, err := .ok, detail := .none }
      rings := ⟨0, 0, 0, 0, 0, 0⟩
      neg := { s.neg with cmdWord := if both then 0x00000015 else 0x00000005 }
      mbx := { s.mbx with inbound := [], outbound := if both then [] else s.mbx.outbound } }

/-- NEGPEND at BUSY = 0 on an open socket (`42_negotiation.md` R108): RLEN is 1 iff the inbound FIFO holds an entry, and
nothing is popped; cmdWord is the accepted CMD value (`10_state.md` R27, log 6). -/
def Obligations.NegpendReportsThePendingRequest : Prop :=
  ∀ s : State, s.fsm = .idle → s.status.isOpen = true → exec .negPend s = .next
    { s with
      status := { s.status with lopc := 0x3, err := .ok, detail := .none }
      neg := { s.neg with cmdWord := 0x00000003 }
      results := { s.results with rlen := if 1 ≤ s.mbx.inbound.length then 1 else 0 } }

/-- NEGOTIATE at BUSY = 0 on an open socket (`42_negotiation.md` R99, R100): RV and the descriptor registers are cleared,
HWF is not, and the controller waits; cmdWord is the accepted CMD value (`10_state.md` R27, log 6), and the CMD write is
recorded (`20_memory.md` R51; log 20). The timeout flag is cleared, which is the model's (log 14). -/
def Obligations.NegotiateStartsWaiting : Prop :=
  ∀ s : State, s.fsm = .idle → s.status.isOpen = true → exec .negotiate s = .next
    { s with
      status := { s.status with lopc := 0x4, rv := false }
      rings := ⟨0, 0, 0, 0, 0, 0⟩
      fsm := .negWait
      neg := { s.neg with kind := .negotiateCmd, ents := [], timeoutEv := false, cmdWord := 0x00000004 }
      ghost := { s.ghost with
        cmdNo := s.ghost.cmdNo + 1
        trace := ⟨.host, s.ghost.cmdNo + 1, .cmdWrite, 0, [], false⟩ :: s.ghost.trace } }

/-- CLOSE, NEGPEND, NEGOTIATE, RESET, WRITE and READ at BUSY = 0 on a closed socket fail with `Parameter(NOT_OPEN)` and
change nothing but LOPC, ERR and DETAIL (`45_session.md` R144, R146; `42_negotiation.md` R99, R108; `43_write.md` R114;
`44_read.md` R127; `60_exceptions.md` R155). -/
def Obligations.ClosedSocketRejectsCommands : Prop :=
  ∀ s : State, s.fsm = .idle → s.status.isOpen = false →
    exec .close s = .next (s.rejected 0x2 .notOpen) ∧
    exec .negPend s = .next (s.rejected 0x3 .notOpen) ∧
    exec .negotiate s = .next (s.rejected 0x4 .notOpen) ∧
    (∀ both, exec (.reset both) s = .next (s.rejected 0x5 .notOpen)) ∧
    exec .write s = .next (s.rejected 0x6 .notOpen) ∧
    exec .read s = .next (s.rejected 0x7 .notOpen)

/-- While BUSY = 1 a command's CMD write is ignored and sets OVR, except CLOSE and RESET in NEG_WAIT, which are recorded
as the abort (`10_state.md` R15; `42_negotiation.md` R107; `45_session.md` R151), with cmdWord the accepted CMD value
(`10_state.md` R27, log 6). -/
def Obligations.BusyControllerIgnoresCommands : Prop :=
  ∀ s : State, s.fsm ≠ .idle →
    (∀ i : Instr, (∃ c, decodeCmd c = .ok i) → (s.fsm = .negWait → i ≠ .close ∧ ∀ both, i ≠ .reset both) →
      exec i s = .next { s with status := { s.status with ovr := true } }) ∧
    (s.fsm = .negWait →
      exec .close s = .next
        { s with neg := { s.neg with abortReq := true, abortCmd := 0x00000002, cmdWord := 0x00000002 } } ∧
      exec (.reset false) s = .next
        { s with neg := { s.neg with abortReq := true, abortCmd := 0x00000005, cmdWord := 0x00000005 } } ∧
      exec (.reset true) s = .next
        { s with neg := { s.neg with abortReq := true, abortCmd := 0x00000015, cmdWord := 0x00000015 } })

/-- NEG_ABORT (`42_negotiation.md` R107): the controller's next step ends the negotiation, runs the aborting command's
effects and completes OK with its opcode; an abandoned OPEN leaves the socket closed with RXIE = 0. The timeout flag is
cleared, which is the model's (log 14). -/
def Obligations.AbortEndsTheNegotiation : Prop :=
  ∀ (s : State) (ch : CtlChoice), s.fsm = .negWait → s.neg.abortReq = true →
    (s.neg.abortCmd = 0x00000002 → s.controllerTurn ch = .next
      { s with
        status := { s.status with
          lopc := 0x2, isOpen := false, rv := false, hwf := false, err := .ok, detail := .none }
        rings := ⟨0, 0, 0, 0, 0, 0⟩
        irq := ⟨false, false⟩
        fsm := .idle
        neg := { s.neg with ents := [], abortReq := false, timeoutEv := false } }) ∧
    (∀ both, s.neg.abortCmd = firstWord (.reset both) → s.controllerTurn ch = .next
      { s with
        status := { s.status with
          lopc := 0x5, rv := false, hwf := false, err := .ok, detail := .none
          isOpen := if s.neg.kind = .openCmd then false else s.status.isOpen }
        rings := ⟨0, 0, 0, 0, 0, 0⟩
        irq := { s.irq with rxie := if s.neg.kind = .openCmd then false else s.irq.rxie }
        fsm := .idle
        neg := { s.neg with ents := [], abortReq := false, timeoutEv := false }
        mbx := { s.mbx with inbound := [], outbound := if both then [] else s.mbx.outbound } })

/-! ### Negotiation -/

/-- The first two entries of a negotiation: each tag's entry is recorded, whatever its tag, and nothing else changes
(`42_negotiation.md` R101). -/
def Obligations.EarlyEntriesAreRecorded : Prop :=
  ∀ (s : State) (d : Word), s.fsm = .negWait → s.neg.ents.length < 2 →
    exec (.localBufferDesc d) s = .next
      { s with neg := { s.neg with ents := s.neg.ents ++ [⟨0xBA5E0001, d⟩] } } ∧
    exec (.remoteBufferDesc d) s = .next
      { s with neg := { s.neg with ents := s.neg.ents ++ [⟨0xBA5E0002, d⟩] } } ∧
    exec (.endOfSetup d) s = .next
      { s with neg := { s.neg with ents := s.neg.ents ++ [⟨0xBA5E0003, d⟩] } }

/-- The third entry of a good negotiation (`42_negotiation.md` R101, R102, R103): when the three entries are, in any
order, one of each tag and both exact capacities are positive, the entry's instruction stores both rings, sets RV,
clears HWF, and for OPEN opens the socket with RXIE from cmdWord. The timeout
flag is cleared with the entries, which is the model's choice (log 14): no rule names the flag. -/
def Obligations.ThirdGoodEntryStoresTheRings : Prop :=
  ∀ (s : State) (e : Entry) (i : Instr) (l r x : Word),
    s.fsm = .negWait → s.neg.ents.length = 2 → decodeEntry e = .ok i →
    (s.neg.ents ++ [e]).Perm [⟨0xBA5E0001, l⟩, ⟨0xBA5E0002, r⟩, ⟨0xBA5E0003, x⟩] →
    s.cfg.rbHdrSize < 2 ^ (l.toNat % 32) → s.cfg.rbHdrSize < 2 ^ (r.toNat % 32) →
      exec i s = .next
        { s with
          status := { s.status with
            rv := true, hwf := false, err := .ok, detail := .none
            isOpen := if s.neg.kind = .openCmd then true else s.status.isOpen }
          irq := { s.irq with rxie := if s.neg.kind = .openCmd then s.neg.cmdWord.getLsbD 5 else s.irq.rxie }
          rings :=
            { ldesc := l
              lbase := l &&& 0xFFFFFFE0#32
              lcap := BitVec.ofNat 32 (2 ^ (l.toNat % 32) - s.cfg.rbHdrSize)
              rdesc := r
              rbase := r &&& 0xFFFFFFE0#32
              rcap := BitVec.ofNat 32 (2 ^ (r.toNat % 32) - s.cfg.rbHdrSize) }
          fsm := .idle
          neg := { s.neg with ents := [], timeoutEv := false } }

/-- The third entry of a bad negotiation (`42_negotiation.md` R102, R104): when the judgement of the three entries is an
error, the command ends with it, the rings stay unset, and a failed OPEN leaves the socket closed with RXIE = 0. The
timeout flag is cleared, which is the model's (log 14). -/
def Obligations.ThirdBadEntryFailsTheNegotiation : Prop :=
  ∀ (s : State) (e : Entry) (i : Instr) (d : Detail),
    s.fsm = .negWait → s.neg.ents.length = 2 → decodeEntry e = .ok i →
    negJudge s.cfg.rbHdrSize (s.neg.ents ++ [e]) = .error d →
      exec i s = .next
        { s with
          status := { s.status with
            err := .negotiationFailed, detail := d
            isOpen := if s.neg.kind = .openCmd then false else s.status.isOpen }
          irq := { s.irq with rxie := if s.neg.kind = .openCmd then false else s.irq.rxie }
          fsm := .idle
          neg := { s.neg with ents := [], timeoutEv := false } }

/-- `42_negotiation.md` R110: three entries popped without error are accepted iff the multiset of their cmd words is the
three tags and both parsed capacities are positive, whatever their order; the rings are those of the two descriptors. -/
def Obligations.NegotiationCompleteness : Prop :=
  ∀ (hdr : Nat) (e₀ e₁ e₂ : Entry) (gL gR : Desc),
    negJudge hdr [e₀, e₁, e₂] = .ok (gL, gR) ↔
      ∃ l r x : Word,
        [e₀, e₁, e₂].Perm [⟨0xBA5E0001, l⟩, ⟨0xBA5E0002, r⟩, ⟨0xBA5E0003, x⟩] ∧
        gL = descParse hdr l ∧ gR = descParse hdr r ∧ 0 < gL.cap ∧ 0 < gR.cap

/-- The order of the negotiation's failures (`42_negotiation.md` R102, `60_exceptions.md` R156): entries are judged in
entry order, an unknown tag or a repeated tag at the first offending entry; then the local capacity, then the remote. -/
def Obligations.NegotiationFailureOrder : Prop :=
  (∀ (hdr : Nat) (before after : List Entry) (e : Entry),
    (before.map Entry.cmd).Nodup → (∀ b ∈ before, b.cmd ∈ [tagLocal, tagRemote, tagEnd]) →
      (e.cmd ∉ [tagLocal, tagRemote, tagEnd] →
        negJudge hdr (before ++ e :: after) = .error .negUnknownTag) ∧
      (e.cmd ∈ before.map Entry.cmd → negJudge hdr (before ++ e :: after) = .error .negDupTag)) ∧
  ∀ (hdr : Nat) (es : List Entry) (l r x : Word),
    es.Perm [⟨tagLocal, l⟩, ⟨tagRemote, r⟩, ⟨tagEnd, x⟩] →
      (2 ^ (l.toNat % 32) ≤ hdr → negJudge hdr es = .error .negBadLocalCap) ∧
      (hdr < 2 ^ (l.toNat % 32) → 2 ^ (r.toNat % 32) ≤ hdr → negJudge hdr es = .error .negBadRemoteCap)

/-- An entry with an unknown tag is consumed like the others (`42_negotiation.md` R101, R102, R104): the first two are
recorded; a third ends the negotiation with the error of NEG_EVAL's judgement of the three, the rings stay unset, and a
failed OPEN leaves the socket closed with RXIE = 0. Nothing else changes but the FIFO, the record of the pop (log 20)
and, as the negotiation ends, the timeout flag, which is the model's (log 14). -/
def Obligations.UnknownTagIsConsumed : Prop :=
  ∀ (s : State) (ch : CtlChoice) (e : Entry) (es : List Entry),
    s.fsm = .negWait → s.neg.abortReq = false → s.neg.timeoutEv = false → s.mbx.inbound = e :: es →
    (ch.popErr && s.cfg.popMayFail) = false → decodeEntry e = .error .unknownTag →
      (s.neg.ents.length < 2 → s.controllerTurn ch = .next
        { s with
          neg := { s.neg with ents := s.neg.ents ++ [e] }
          mbx := { s.mbx with inbound := es }
          ghost := { s.ghost with trace :=
            ⟨.controller, s.ghost.cmdNo, .pop (s.ghost.entered.length - s.mbx.inbound.length), 0, entryBytes e, false⟩ ::
              s.ghost.trace } }) ∧
      (s.neg.ents.length = 2 → ∃ d, negJudge s.cfg.rbHdrSize (s.neg.ents ++ [e]) = .error d ∧
        s.controllerTurn ch = .next
          { s with
            status := { s.status with
              err := .negotiationFailed, detail := d
              isOpen := if s.neg.kind = .openCmd then false else s.status.isOpen }
            irq := { s.irq with rxie := if s.neg.kind = .openCmd then false else s.irq.rxie }
            fsm := .idle
            neg := { s.neg with ents := [], timeoutEv := false }
            mbx := { s.mbx with inbound := es }
            ghost := { s.ghost with trace :=
              ⟨.controller, s.ghost.cmdNo, .pop (s.ghost.entered.length - s.mbx.inbound.length), 0, entryBytes e, false⟩ ::
                s.ghost.trace } })

/-- With no abort, no timeout and no entry, the waiting controller holds (`42_negotiation.md` R105), and a timeout that is
pending fails the negotiation unless an abort comes first (R101, R106, `60_exceptions.md` R156). The model's choices: the
hold is a turn that changes nothing (log 5), and a timeout event that has come stays pending, so that it fails the
negotiation even if an entry has arrived since, and is then spent (log 14). -/
def Obligations.WaitingControllerHolds : Prop :=
  ∀ (s : State) (ch : CtlChoice), s.fsm = .negWait → s.neg.abortReq = false →
    (s.neg.timeoutEv = false → s.mbx.inbound = [] → s.controllerTurn ch = .next s) ∧
    (s.neg.timeoutEv = true → s.controllerTurn ch = .next
      { s with
        status := { s.status with
          err := .negotiationFailed, detail := .negTimeout
          isOpen := if s.neg.kind = .openCmd then false else s.status.isOpen }
        irq := { s.irq with rxie := if s.neg.kind = .openCmd then false else s.irq.rxie }
        fsm := .idle
        neg := { s.neg with ents := [], timeoutEv := false } })

/-- A pop that answers Err (`42_negotiation.md` R101, R104, `60_exceptions.md` R165): the negotiation fails at once with
NEG_FIFO_ERROR, a failed OPEN leaves the socket closed with RXIE = 0, and the FIFO holds some suffix of its contents;
which one is the free value of log 4, whose number is counted. Pops may fail on this hardware (`00_scope.md` R7). The
timeout flag is cleared, which is the model's (log 14). Nothing else changes. -/
def Obligations.FailedPopEndsTheNegotiation : Prop :=
  ∀ (s : State) (ch : CtlChoice), s.fsm = .negWait → s.neg.abortReq = false → s.neg.timeoutEv = false →
    s.mbx.inbound ≠ [] → ch.popErr = true → s.cfg.popMayFail = true →
      ∃ rest, rest <:+ s.mbx.inbound ∧ s.controllerTurn ch = .next
        { s with
          status := { s.status with
            err := .negotiationFailed, detail := .negFifoError
            isOpen := if s.neg.kind = .openCmd then false else s.status.isOpen }
          irq := { s.irq with rxie := if s.neg.kind = .openCmd then false else s.irq.rxie }
          fsm := .idle
          neg := { s.neg with ents := [], timeoutEv := false }
          mbx := { s.mbx with inbound := rest }
          ghost := { s.ghost with draws := s.ghost.draws + 1 } }

/-! ### The descriptor parser and the ring arithmetic -/

/-- DESC_PARSE (`40_descriptor.md` R80): the base pointer is the word without its low five bits, and the capacity is the
exact integer `2^n - RB_HDR_SIZE`; a valid descriptor's capacity is a positive multiple of 16 and at most
`2^31 - RB_HDR_SIZE`, so below `2^31` (R82). -/
def Obligations.DescriptorParsesExactly : Prop :=
  ∀ (hdr : Nat) (word : Word),
    (descParse hdr word).desc = word ∧
    (descParse hdr word).base.toNat = word.toNat / 32 * 32 ∧
    (descParse hdr word).cap = (2 : Int) ^ (word.toNat % 32) - (hdr : Int) ∧
    (hdr % 16 = 0 → 16 ≤ hdr → 0 < (descParse hdr word).cap →
      (descParse hdr word).cap % 16 = 0 ∧ (descParse hdr word).cap ≤ 2 ^ 31 - (hdr : Int) ∧
      (descParse hdr word).cap < 2 ^ 31)

/-- `41_ring_primitives.md` R90: with `0 <= p < cap` and `cap mod 16 = 0`, ALIGN_POS is the least multiple of 16 at or
above p, or 0 where that is the capacity, so it is a multiple of 16 below the capacity. -/
def Obligations.AlignPosRoundsUpAndWraps : Prop :=
  ∀ p cap : Nat, p < cap → cap % 16 = 0 →
    (∃ q, p ≤ q ∧ q % 16 = 0 ∧ (∀ m, p ≤ m → m % 16 = 0 → q ≤ m) ∧
      alignPos p cap = if q = cap then 0 else q) ∧
    alignPos p cap % 16 = 0 ∧ alignPos p cap < cap

/-- `41_ring_primitives.md` R93: the writer's free space and the reader's data make up the whole ring, and the free space
never reaches 0; for cursors that pass `cursorOK` both are multiples of 16 in their ranges (R91, R92). -/
def Obligations.FreeAndAvailableMakeUpTheRing : Prop :=
  (∀ w r cap : Nat, w < cap → r < cap → freeSpace w r cap + availData r w cap = cap ∧ 0 < freeSpace w r cap) ∧
  ∀ (w r : Word) (cap : Nat), cap % 16 = 0 → cursorOK w cap = true → cursorOK r cap = true →
    freeSpace w.toNat r.toNat cap % 16 = 0 ∧ 16 ≤ freeSpace w.toNat r.toNat cap ∧
    freeSpace w.toNat r.toNat cap ≤ cap ∧
    availData r.toNat w.toNat cap % 16 = 0 ∧ availData r.toNat w.toNat cap ≤ cap - 16

/-- `41_ring_primitives.md` R95, `43_write.md` R123: after a WRITE that passed the space test, the published writeIndex is
`(w + alignUp16(24 + P)) mod cap`, passes `cursorOK`, never equals the readIndex, and leaves at least 16 bytes free. -/
def Obligations.WriteNeverFillsTheRing : Prop :=
  ∀ (w r : Word) (cap p : Nat), cap % 16 = 0 → cap ≤ 2 ^ 31 → cursorOK w cap = true → cursorOK r cap = true →
    24 + p + 16 ≤ freeSpace w.toNat r.toNat cap →
      alignPos ((w.toNat + (24 + p)) % cap) cap = (w.toNat + alignUp16 (24 + p)) % cap ∧
      cursorOK (BitVec.ofNat 32 (alignPos ((w.toNat + (24 + p)) % cap) cap)) cap = true ∧
      alignPos ((w.toNat + (24 + p)) % cap) cap ≠ r.toNat ∧
      freeSpace (alignPos ((w.toNat + (24 + p)) % cap) cap) r.toNat cap
        = freeSpace w.toNat r.toNat cap - alignUp16 (24 + p) ∧
      16 ≤ freeSpace (alignPos ((w.toNat + (24 + p)) % cap) cap) r.toNat cap

/-- `44_read.md` R139, `41_ring_primitives.md` R96: the readIndex READ publishes is `(r + alignUp16(4 + L)) mod cap`, passes
`cursorOK`, and does not pass the writeIndex: the data left is what was available less the block's footprint. -/
def Obligations.ReadNeverPassesTheWriter : Prop :=
  ∀ (w r : Word) (cap l : Nat), cap % 16 = 0 → cap ≤ 2 ^ 31 → cursorOK w cap = true → cursorOK r cap = true →
    4 + l ≤ availData r.toNat w.toNat cap →
      alignPos ((r.toNat + (4 + l)) % cap) cap = (r.toNat + alignUp16 (4 + l)) % cap ∧
      cursorOK (BitVec.ofNat 32 (alignPos ((r.toNat + (4 + l)) % cap) cap)) cap = true ∧
      alignUp16 (4 + l) ≤ availData r.toNat w.toNat cap ∧
      availData (alignPos ((r.toNat + (4 + l)) % cap) cap) w.toNat cap
        = availData r.toNat w.toNat cap - alignUp16 (4 + l)

/-- `41_ring_primitives.md` R88: a copy that fits before the end of the ring is one contiguous run from its position; a
longer one, of at most the capacity, is a first run up to the capacity and a second run from position 0. -/
def Obligations.CrossingCopyIsTwoRuns : Prop :=
  ∀ (hdr : Nat) (g : RingView) (m : Mem) (pos : Nat), pos < g.cap →
    (∀ src : List Byte, src.length ≤ g.cap - pos →
      rbWrite hdr g m pos src = m.writeBytes (g.dataAddr hdr pos) src ∧
      rbRead hdr g m pos src.length = m.readBytes (g.dataAddr hdr pos) src.length) ∧
    ∀ first second : List Byte, first.length = g.cap - pos → second.length ≤ pos →
      rbWrite hdr g m pos (first ++ second)
        = (m.writeBytes (g.dataAddr hdr pos) first).writeBytes (g.dataAddr hdr 0) second ∧
      rbRead hdr g m pos (first.length + second.length)
        = m.readBytes (g.dataAddr hdr pos) first.length ++ m.readBytes (g.dataAddr hdr 0) second.length

/-- What RB_WRITE stores RB_READ returns, and RB_WRITE changes no other byte (`41_ring_primitives.md` R86, R87), for a copy
of at most the capacity in a ring that does not cover the address space twice. -/
def Obligations.RingCopyRoundTrips : Prop :=
  ∀ (hdr : Nat) (g : RingView) (m : Mem) (pos : Nat) (src : List Byte),
    Mem.wf m = true → src.length ≤ g.cap → g.cap ≤ 2 ^ 32 →
      rbRead hdr g (rbWrite hdr g m pos src) pos src.length = src ∧
      ∀ a : Word, (∀ i < src.length, a ≠ g.byteAddr hdr pos i) →
        (rbWrite hdr g m pos src).read8 a = m.read8 a

/-! ### WRITE -/

/-- WRITE's CMD write at BUSY = 0 (`43_write.md` R114, R115; `60_exceptions.md` R156; `20_memory.md` R62):
the first failing register-only check is reported, with no memory access, no signal, and no change but LOPC, ERR and
DETAIL; when all pass the controller enters EXEC and touches neither memory nor the mailbox, cmdWord is the accepted CMD
value (`10_state.md` R27, log 6), and the CMD write is recorded (`20_memory.md` R51; log 20). -/
def Obligations.WriteChecksInOrder : Prop :=
  ∀ s : State, s.fsm = .idle →
    (s.status.isOpen = false → exec .write s = .next (s.rejected 0x6 .notOpen)) ∧
    (s.status.isOpen = true → s.status.rv = false → exec .write s = .next (s.rejected 0x6 .notNegotiated)) ∧
    (s.status.isOpen = true → s.status.rv = true → s.status.hwf = true →
      exec .write s = .next (s.rejected 0x6 .hwfLatched)) ∧
    (s.status.isOpen = true → s.status.rv = true → s.status.hwf = false →
      (s.args.addr = 0 → exec .write s = .next (s.rejected 0x6 .nullAddr)) ∧
      (s.args.addr ≠ 0 → s.args.len = 0 → exec .write s = .next (s.rejected 0x6 .zeroLen)) ∧
      (s.args.addr ≠ 0 → 1040 < s.args.len.toNat → exec .write s = .next (s.rejected 0x6 .tooLong)) ∧
      (s.args.addr ≠ 0 → 0 < s.args.len.toNat → s.args.len.toNat ≤ 1040 →
        exec .write s = .next
          { s with
            status := { s.status with lopc := 0x6 }
            fsm := .exec
            neg := { s.neg with cmdWord := 0x00000006 }
            xfer := { s.xfer with cmd := .write, phase := .loadPeer, todo := [] }
            ghost := { s.ghost with
              cmdNo := s.ghost.cmdNo + 1
              trace := ⟨.host, s.ghost.cmdNo + 1, .cmdWrite, 0, [], false⟩ :: s.ghost.trace } }))

/-- WRITE's two cursor loads, its cursor check and its space test (`43_write.md` R116, R117, R118), for a step without bus
error. The first primitive loads local.readIndex at LBASE + 4, the second local.writeIndex at LBASE + 0: each value is
memory's word where no byte of it races (`20_memory.md` R53) or lies in the source buffer (R47), and any value else. The
second then ends the command with CURSOR_INVALID and HWF where either cursor fails `cursorOK`, with WR_NO_ROOM where the
free space is below 24 + P + 16, and else goes on to the data accesses. The first load is one acquire read, the second
one plain read (R116; `20_memory.md` R49, R50), each at an address that is a cursor word in every state of the invariant
(`10_state.md` R28, R29). Nothing else changes. The record of a load and the count of free values are the model's own
(log 20, log 4); that the temporaries keep their values where the command has ended is the model's choice (log 8). -/
def Obligations.WriteTestsCursorsAndSpace : Prop :=
  ∀ (s : State) (ch : CtlChoice), s.fsm = .exec → s.xfer.cmd = .write → ch.busError = false →
    let peerAcc := s.cursorAccess .acqRead (s.rings.lbase + 4) 4
    let ownAcc := s.cursorAccess .plainRead s.rings.lbase 4
    (MachineInv s → peerAcc = true ∧ ownAcc = true) ∧
    (s.xfer.phase = .loadPeer → ∃ r : Word,
      (ch.race = 0 →
        (∀ k < 4, inRun s.args.addr s.args.len.toNat (s.rings.lbase + 4 + BitVec.ofNat 32 k) = false) →
        r = s.mem.read32 (s.rings.lbase + 4)) ∧
      s.controllerTurn ch = .next
        { s with
          xfer := { s.xfer with r := r, phase := .loadOwn }
          ghost := s.readRecorded .acqRead (s.rings.lbase + 4)
            (s.cmdMarks s.localRing ch.race (s.rings.lbase + 4)) r peerAcc }) ∧
    (s.xfer.phase = .loadOwn → ∃ w : Word,
      let gh := s.readRecorded .plainRead s.rings.lbase (s.cmdMarks s.localRing ch.race s.rings.lbase) w ownAcc
      (ch.race = 0 →
        (∀ k < 4, inRun s.args.addr s.args.len.toNat (s.rings.lbase + BitVec.ofNat 32 k) = false) →
        w = s.mem.read32 s.rings.lbase) ∧
      s.controllerTurn ch = .next
        (if cursorOK s.xfer.r s.rings.lcap.toNat = true ∧ cursorOK w s.rings.lcap.toNat = true then
          if freeSpace w.toNat s.xfer.r.toNat s.rings.lcap.toNat < 24 + s.args.len.toNat + 16 then
            { s with
              status := { s.status with err := .insufficientSpace, detail := .wrNoRoom }
              fsm := .idle, xfer := { s.xfer with w := w }, ghost := gh }
          else
            { s with
              xfer := { s.xfer with
                w := w, phase := .data, todo := s.writePlan w.toNat
                pos := (w.toNat + (24 + s.args.len.toNat)) % s.rings.lcap.toNat }
              ghost := gh }
        else
          { s with
            status := { s.status with hwf := true, err := .hardwareState, detail := .cursorInvalid }
            fsm := .idle, xfer := { s.xfer with w := w }, ghost := gh }))

/-- The whole of WRITE (`43_write.md` R114, R116, R118, R120 to R125; `20_memory.md` R42, R50). From a Ready idle state whose
checks pass, with a source buffer that shares no byte with the local ring or its header (`20_memory.md` R47): for every
order of the data accesses, no bus error and no data race, while only the controller moves, it completes OK; the block's
bytes are L = 20 + P, the id, the reserved word 0 and the payload; local.writeIndex is the rounded end position; one
signal is sent; every other byte of memory and every register but STATUS is unchanged. Its events are, in this order: the
CMD write, the acquire read of local.readIndex, the plain read of local.writeIndex, 24 + 2P plain accesses of one byte, one
release write of local.writeIndex whose bytes are the published word, and the signal (R116, R124, R125). That it takes
28 + 2P steps is the model's one access a byte (log 10), and the trace that holds the events is the model's record
(log 20). -/
def Obligations.WriteDeliversTheBlock : Prop :=
  ∀ (s : State) (cs : List CtlChoice), MachineInv s →
    s.fsm = .idle → s.status.isOpen = true → s.status.rv = true → s.status.hwf = false →
    s.args.addr ≠ 0 → 0 < s.args.len.toNat → s.args.len.toNat ≤ 1040 →
    let p := s.args.len.toNat
    let hdr := s.cfg.rbHdrSize
    let g := s.localRing
    let n := s.ghost.cmdNo + 1
    let r := s.mem.read32 (s.rings.lbase + 4)
    let w := s.mem.read32 s.rings.lbase
    cursorOK r g.cap = true → cursorOK w g.cap = true → 24 + p + 16 ≤ freeSpace w.toNat r.toNat g.cap →
    (∀ i < p, ∀ k < hdr + g.cap, s.args.addr + BitVec.ofNat 32 i ≠ s.rings.lbase + BitVec.ofNat 32 k) →
    (∀ c ∈ cs, c.clean) → cs.length = 28 + 2 * p →
      ∃ s₁ t, exec .write s = .next s₁ ∧ runChoices cs s₁ = .next t ∧
        t.fsm = .idle ∧ t.status = { s.status with lopc := 0x6, err := .ok, detail := .none } ∧
        (∀ k < 4, t.mem.read8 (g.byteAddr hdr w.toNat k) = byteOf (BitVec.ofNat 32 (20 + p)) k) ∧
        (∀ k < 16, t.mem.read8 (g.byteAddr hdr w.toNat (4 + k)) = s.args.id.byte k) ∧
        (∀ k < 4, t.mem.read8 (g.byteAddr hdr w.toNat (20 + k)) = 0) ∧
        (∀ i < p, t.mem.read8 (g.byteAddr hdr w.toNat (24 + i))
          = s.mem.read8 (s.args.addr + BitVec.ofNat 32 i)) ∧
        t.mem.read32 s.rings.lbase = BitVec.ofNat 32 (alignPos ((w.toNat + (24 + p)) % g.cap) g.cap) ∧
        (∀ a : Word, (∀ k < 24 + p, a ≠ g.byteAddr hdr w.toNat k) →
          (∀ k < 4, a ≠ s.rings.lbase + BitVec.ofNat 32 k) → t.mem.read8 a = s.mem.read8 a) ∧
        t.mbx = { s.mbx with sigToPartner := s.mbx.sigToPartner + 1 } ∧
        t.rings = s.rings ∧ t.args = s.args ∧ t.results = s.results ∧ t.irq = s.irq ∧
        t.neg = { s.neg with cmdWord := 0x00000006 } ∧ t.cfg = s.cfg ∧ t.env = s.env ∧
        ∃ data : List Event, data.length = 24 + 2 * p ∧ (∀ e ∈ data, e.isDataAccess n) ∧
          t.ghost.trace =
            ⟨.controller, n, .signal, 0, [], false⟩ ::
            wordEvent n .relWrite s.rings.lbase
              (BitVec.ofNat 32 (alignPos ((w.toNat + (24 + p)) % g.cap) g.cap)) true ::
            (data ++
              wordEvent n .plainRead s.rings.lbase w true ::
              wordEvent n .acqRead (s.rings.lbase + 4) r true ::
              ⟨.host, n, .cmdWrite, 0, [], false⟩ :: s.ghost.trace)

/-! ### READ -/

/-- READ's CMD write at BUSY = 0 (`44_read.md` R127, R128; `60_exceptions.md` R156; `20_memory.md` R62): the
first failing register-only check is reported, with no memory access, no signal, and no change but LOPC, ERR and DETAIL;
when all pass the controller enters EXEC and touches neither memory nor the mailbox, cmdWord is the accepted CMD value
(`10_state.md` R27, log 6), and the CMD write is recorded (`20_memory.md` R51; log 20). LEN is not checked. -/
def Obligations.ReadChecksInOrder : Prop :=
  ∀ s : State, s.fsm = .idle →
    (s.status.isOpen = false → exec .read s = .next (s.rejected 0x7 .notOpen)) ∧
    (s.status.isOpen = true → s.status.rv = false → exec .read s = .next (s.rejected 0x7 .notNegotiated)) ∧
    (s.status.isOpen = true → s.status.rv = true → s.status.hwf = true →
      exec .read s = .next (s.rejected 0x7 .hwfLatched)) ∧
    (s.status.isOpen = true → s.status.rv = true → s.status.hwf = false →
      (s.args.addr = 0 → exec .read s = .next (s.rejected 0x7 .nullAddr)) ∧
      (s.args.addr ≠ 0 → exec .read s = .next
        { s with
          status := { s.status with lopc := 0x7 }
          fsm := .exec
          neg := { s.neg with cmdWord := 0x00000007 }
          xfer := { s.xfer with cmd := .read, phase := .loadPeer, todo := [] }
          ghost := { s.ghost with
            cmdNo := s.ghost.cmdNo + 1
            trace := ⟨.host, s.ghost.cmdNo + 1, .cmdWrite, 0, [], false⟩ :: s.ghost.trace } }))

/-- READ's two cursor loads, its cursor check and its empty test (`44_read.md` R129 to R132), for a step without bus error.
The first primitive loads remote.writeIndex at RBASE + 0, the second remote.readIndex at RBASE + 4: each value is memory's
word where no byte of it races (`20_memory.md` R53) or lies in the destination buffer (R47), and any value else. The
second then ends the command with CURSOR_INVALID and HWF where either cursor fails `cursorOK`, with RD_EMPTY where fewer
than 4 bytes are available, and else goes on to the length field: with an aligned capacity the straddle test never fires
(R133). The first load is one acquire read, the second one plain read (R129; `20_memory.md` R49, R50), each at an address
that is a cursor word in every state of the invariant (`10_state.md` R28, R29). Nothing else changes. The record of a load
and the count of free values are the model's own (log 20, log 4); that the temporaries keep their values where the command
has ended is the model's choice (log 8). -/
def Obligations.ReadTestsCursorsAndEmptiness : Prop :=
  ∀ (s : State) (ch : CtlChoice), s.fsm = .exec → s.xfer.cmd = .read → ch.busError = false →
    let peerAcc := s.cursorAccess .acqRead s.rings.rbase 4
    let ownAcc := s.cursorAccess .plainRead (s.rings.rbase + 4) 4
    (MachineInv s → peerAcc = true ∧ ownAcc = true) ∧
    (s.xfer.phase = .loadPeer → ∃ w : Word,
      (ch.race = 0 →
        (∀ k < 4, inRun s.args.addr s.args.len.toNat (s.rings.rbase + BitVec.ofNat 32 k) = false) →
        w = s.mem.read32 s.rings.rbase) ∧
      s.controllerTurn ch = .next
        { s with
          xfer := { s.xfer with w := w, phase := .loadOwn }
          ghost := s.readRecorded .acqRead s.rings.rbase (s.cmdMarks s.remoteRing ch.race s.rings.rbase) w peerAcc }) ∧
    (s.xfer.phase = .loadOwn → s.rings.rcap.toNat % 16 = 0 → ∃ r : Word,
      let gh := s.readRecorded .plainRead (s.rings.rbase + 4)
        (s.cmdMarks s.remoteRing ch.race (s.rings.rbase + 4)) r ownAcc
      (ch.race = 0 →
        (∀ k < 4, inRun s.args.addr s.args.len.toNat (s.rings.rbase + 4 + BitVec.ofNat 32 k) = false) →
        r = s.mem.read32 (s.rings.rbase + 4)) ∧
      s.controllerTurn ch = .next
        (if cursorOK r s.rings.rcap.toNat = true ∧ cursorOK s.xfer.w s.rings.rcap.toNat = true then
          if availData r.toNat s.xfer.w.toNat s.rings.rcap.toNat < 4 then
            { s with
              status := { s.status with err := .insufficientSpace, detail := .rdEmpty }
              fsm := .idle, xfer := { s.xfer with r := r }, ghost := gh }
          else { s with xfer := { s.xfer with r := r, phase := .loadLen }, ghost := gh }
        else
          { s with
            status := { s.status with hwf := true, err := .hardwareState, detail := .cursorInvalid }
            fsm := .idle, xfer := { s.xfer with r := r }, ghost := gh }))

/-- READ's length and destination checks (`44_read.md` R134, R135, R136), for a step without bus error: L is memory's word at
the block's start where no byte of it races (`20_memory.md` R53) or lies in the destination buffer (R47), and any value
else; `L + 4` does not wrap; RD_BAD_LENGTH iff `L + 4 > A` or `L < 20`, else RD_DST_TOO_SMALL iff `L - 20 > LEN`, else the
data accesses begin. The load is one length-field read, which is no cursor access (`20_memory.md` R42, R49, R50). Nothing
else changes. The record of the load and the count of free values are the model's own (log 20, log 4); that the temporaries
keep their values where the command has ended is the model's choice (log 8). -/
def Obligations.ReadTestsTheLengthField : Prop :=
  ∀ (s : State) (ch : CtlChoice), s.fsm = .exec → s.xfer.cmd = .read → s.xfer.phase = .loadLen →
    ch.busError = false →
      let a := addr32 (s.rings.rbase.toNat + s.cfg.rbHdrSize + s.xfer.r.toNat)
      let avail := availData s.xfer.r.toNat s.xfer.w.toNat s.rings.rcap.toNat
      ∃ l : Word,
        let gh := s.readRecorded .lenRead a (s.cmdMarks s.remoteRing ch.race a) l false
        (ch.race = 0 →
          (∀ k < 4, inRun s.args.addr s.args.len.toNat (a + BitVec.ofNat 32 k) = false) → l = s.mem.read32 a) ∧
        s.controllerTurn ch = .next
          (if avail < l.toNat + 4 ∨ l.toNat < 20 then
            { s with
              status := { s.status with err := .insufficientSpace, detail := .rdBadLength }
              fsm := .idle, xfer := { s.xfer with len := l }, ghost := gh }
          else if s.args.len.toNat < l.toNat - 20 then
            { s with
              status := { s.status with err := .insufficientSpace, detail := .rdDstTooSmall }
              fsm := .idle, xfer := { s.xfer with len := l }, ghost := gh }
          else
            { s with
              xfer := { s.xfer with
                len := l, phase := .data
                todo := State.readPlan { s with xfer := { s.xfer with len := l } }
                pos := (s.xfer.r.toNat + (4 + l.toNat)) % s.rings.rcap.toNat }
              ghost := gh })

/-- The whole of READ (`44_read.md` R127, R129, R131, R134 to R140; `20_memory.md` R42, R50). From a Ready idle state whose
checks pass, with a destination buffer (ADDR, LEN) that shares no byte with the remote ring or its header (`20_memory.md`
R47): for every order of the data accesses, no bus error and no data race, while only the controller moves, it completes
OK; RID is the sender id, RLEN the payload length, the destination holds the payload; remote.readIndex is the rounded end
position; one signal is sent; every other byte of memory and every other register but STATUS is unchanged. Its events are, in
this order: the CMD write, the acquire read of remote.writeIndex, the plain read of remote.readIndex, the length-field read,
20 + 2P plain accesses of one byte, one release write of remote.readIndex whose bytes are the published word, and the signal
(R129, R134, R139, R140). That it takes 25 + 2P steps is the model's one access a byte (log 10), and the trace that holds
the events is the model's record (log 20). -/
def Obligations.ReadDeliversTheMessage : Prop :=
  ∀ (s : State) (cs : List CtlChoice), MachineInv s →
    s.fsm = .idle → s.status.isOpen = true → s.status.rv = true → s.status.hwf = false → s.args.addr ≠ 0 →
    let hdr := s.cfg.rbHdrSize
    let g := s.remoteRing
    let n := s.ghost.cmdNo + 1
    let w := s.mem.read32 s.rings.rbase
    let r := s.mem.read32 (s.rings.rbase + 4)
    let l := (s.mem.read32 (g.dataAddr hdr r.toNat)).toNat
    let p := l - 20
    cursorOK r g.cap = true → cursorOK w g.cap = true → l + 4 ≤ availData r.toNat w.toNat g.cap → 20 ≤ l →
    p ≤ s.args.len.toNat →
    (∀ i < s.args.len.toNat, ∀ k < hdr + g.cap,
      s.args.addr + BitVec.ofNat 32 i ≠ s.rings.rbase + BitVec.ofNat 32 k) →
    (∀ c ∈ cs, c.clean) → cs.length = 25 + 2 * p →
      ∃ s₁ t, exec .read s = .next s₁ ∧ runChoices cs s₁ = .next t ∧
        t.fsm = .idle ∧ t.status = { s.status with lopc := 0x7, err := .ok, detail := .none } ∧
        (∀ k < 16, t.results.rid.byte k = s.mem.read8 (g.byteAddr hdr r.toNat (4 + k))) ∧
        t.results.rlen = BitVec.ofNat 32 p ∧
        (∀ i < p, t.mem.read8 (s.args.addr + BitVec.ofNat 32 i)
          = s.mem.read8 (g.byteAddr hdr r.toNat (24 + i))) ∧
        t.mem.read32 (s.rings.rbase + 4) = BitVec.ofNat 32 (alignPos ((r.toNat + (4 + l)) % g.cap) g.cap) ∧
        (∀ a : Word, (∀ i < p, a ≠ s.args.addr + BitVec.ofNat 32 i) →
          (∀ k < 4, a ≠ s.rings.rbase + 4 + BitVec.ofNat 32 k) → t.mem.read8 a = s.mem.read8 a) ∧
        t.mbx = { s.mbx with sigToPartner := s.mbx.sigToPartner + 1 } ∧
        t.rings = s.rings ∧ t.args = s.args ∧ t.irq = s.irq ∧ t.neg = { s.neg with cmdWord := 0x00000007 } ∧
        t.cfg = s.cfg ∧ t.env = s.env ∧
        ∃ data : List Event, data.length = 20 + 2 * p ∧ (∀ e ∈ data, e.isDataAccess n) ∧
          t.ghost.trace =
            ⟨.controller, n, .signal, 0, [], false⟩ ::
            wordEvent n .relWrite (s.rings.rbase + 4)
              (BitVec.ofNat 32 (alignPos ((r.toNat + (4 + l)) % g.cap) g.cap)) true ::
            (data ++
              wordEvent n .lenRead (g.dataAddr hdr r.toNat) (s.mem.read32 (g.dataAddr hdr r.toNat)) false ::
              wordEvent n .plainRead (s.rings.rbase + 4) r true ::
              wordEvent n .acqRead s.rings.rbase w true ::
              ⟨.host, n, .cmdWrite, 0, [], false⟩ :: s.ghost.trace)

/-! ### Bus errors, termination, and what a controller step may change -/

/-- `20_memory.md` R59: a memory access of a WRITE or READ that gets an error response ends the command with
`HardwareState(BUS_ERROR)` and HWF, without a signal; memory is as it was, except that the failing access being the
publishing write leaves the bytes of that cursor word with any value. That a failing data access writes nothing is the
model's choice (log 12). -/
def Obligations.BusErrorStopsTheTransfer : Prop :=
  ∀ (s : State) (ch : CtlChoice), MachineInv s → s.fsm = .exec → s.xfer.phase ≠ .signal → ch.busError = true →
    ∃ t, s.controllerTurn ch = .next t ∧ t.fsm = .idle ∧
      t.status = { s.status with hwf := true, err := .hardwareState, detail := .busError } ∧
      t.mbx = s.mbx ∧ t.rings = s.rings ∧ t.args = s.args ∧ t.results = s.results ∧ t.irq = s.irq ∧
      (s.xfer.phase ≠ .publish → t.mem = s.mem) ∧
      (s.xfer.phase = .publish → ∀ a : Word,
        (∀ k < 4, a ≠ (match s.xfer.cmd with
          | .write => s.rings.lbase
          | .read => s.rings.rbase + 4) + BitVec.ofNat 32 k) → t.mem.read8 a = s.mem.read8 a)

/-- `70_reset_and_hazards.md` R189: WRITE and READ complete in a bounded number of controller steps, whatever the order of
the data accesses, whatever errors the memory port answers and whatever a racing access reads. R189 gives no numbers: the
bounds 28 + 2 LEN and 25 + 2 RCAP count the model's own accesses of one byte each, a design choice (log 10). -/
def Obligations.TransfersComplete : Prop :=
  ∀ (s : State) (cs : List CtlChoice), MachineInv s → s.fsm = .exec →
    (match s.xfer.cmd with
    | .write => 28 + 2 * s.args.len.toNat
    | .read => 25 + 2 * s.rings.rcap.toNat) ≤ cs.length →
      ∃ t, runChoices cs s = .next t ∧ t.fsm = .idle

/-- Which bytes of memory a controller step may change (`20_memory.md` R60, `43_write.md` R120, R121, R124, `44_read.md` R137,
R139): a WRITE's, those of its block and of local.writeIndex; a READ's, its destination's and those of remote.readIndex;
no byte outside EXEC. It changes no argument register (`10_state.md` R21), no parameter (`00_scope.md` R7), and nothing of what
the environment still does. In EXEC, whatever choice the environment makes and whatever areas overlap, it changes no
interrupt register, no ring register and nothing of the negotiation state; unless it ends the command, it changes no
stored STATUS field (R17), no result register (R22) and nothing of the mailbox either; and where it ends the command, of
STATUS it changes ERR, DETAIL and HWF at most. -/
def Obligations.ControllerWritesOnlyItsOwnBytes : Prop :=
  ∀ (s t : State) (ch : CtlChoice), MachineInv s → s.controllerTurn ch = .next t →
    t.args = s.args ∧ t.cfg = s.cfg ∧ t.env = s.env ∧
    (s.fsm ≠ .exec → t.mem = s.mem) ∧
    (s.fsm = .exec → s.xfer.cmd = .write → ∀ a : Word,
      (∀ k < 24 + s.args.len.toNat, a ≠ s.localRing.byteAddr s.cfg.rbHdrSize s.xfer.w.toNat k) →
      (∀ k < 4, a ≠ s.rings.lbase + BitVec.ofNat 32 k) → t.mem.read8 a = s.mem.read8 a) ∧
    (s.fsm = .exec → s.xfer.cmd = .read → ∀ a : Word,
      (∀ i < s.xfer.len.toNat - 20, a ≠ s.args.addr + BitVec.ofNat 32 i) →
      (∀ k < 4, a ≠ s.rings.rbase + 4 + BitVec.ofNat 32 k) → t.mem.read8 a = s.mem.read8 a) ∧
    (s.fsm = .exec →
      t.irq = s.irq ∧ t.rings = s.rings ∧ t.neg = s.neg ∧
      (t.fsm = .exec → t.status = s.status ∧ t.results = s.results ∧ t.mbx = s.mbx ∧ t.xfer.cmd = s.xfer.cmd) ∧
      (t.fsm ≠ .exec → t.fsm = .idle ∧ t.status.isOpen = s.status.isOpen ∧ t.status.rv = s.status.rv ∧
        t.status.ovr = s.status.ovr ∧ t.status.lopc = s.status.lopc))

/-! ### The register port -/

/-- `10_state.md` R15: a read has no side effect on any register and returns the register's value, 0 at CMD and at a reserved
offset; an access that is not an aligned 32-bit access is not performed and gets an error response. What a read returns
at each offset but STATUS is the register map of R14 with R20 to R24; STATUS is the statement StatusWordFields. The
answer's field is the model's (log 16), and so is the record of a STATUS read that shows BUSY = 0 (log 20). -/
def Obligations.RegisterPortAccesses : Prop :=
  (∀ (s : State) (rest : List HostAct) (acc : Access) (v : Word),
    s.env.hostProg = .regRead acc :: rest ∨ s.env.hostProg = .regWrite acc v :: rest →
      ((acc.size ≠ 4 ∨ acc.offset.toNat % 4 ≠ 0) →
        s.hostTurn = .next { s with env := { s.env with hostProg := rest, hostResp := .error } }) ∧
      (s.env.hostProg = .regRead acc :: rest → acc.size = 4 → acc.offset.toNat % 4 = 0 →
        s.hostTurn = .next
          { s with
            env := { s.env with hostProg := rest, hostResp := .data (s.readOffset acc.offset) }
            ghost := { s.ghost with trace :=
              if acc.offset = 0x04 ∧ s.fsm = .idle then
                ⟨.host, s.ghost.cmdNo, .idleRead, 0, [], false⟩ :: s.ghost.trace
              else s.ghost.trace } })) ∧
  ∀ s : State,
    s.readOffset 0x00 = 0 ∧
    s.readOffset 0x08 = (if s.irq.rxie then 1 else 0) ∧ s.readOffset 0x0C = (if s.irq.rxp then 1 else 0) ∧
    s.readOffset 0x10 = s.args.id.w0 ∧ s.readOffset 0x14 = s.args.id.w1 ∧
    s.readOffset 0x18 = s.args.id.w2 ∧ s.readOffset 0x1C = s.args.id.w3 ∧
    s.readOffset 0x20 = s.args.addr ∧ s.readOffset 0x24 = s.args.len ∧
    s.readOffset 0x28 = s.results.rid.w0 ∧ s.readOffset 0x2C = s.results.rid.w1 ∧
    s.readOffset 0x30 = s.results.rid.w2 ∧ s.readOffset 0x34 = s.results.rid.w3 ∧
    s.readOffset 0x38 = s.results.rlen ∧
    s.readOffset 0x40 = s.rings.ldesc ∧ s.readOffset 0x44 = s.rings.lbase ∧ s.readOffset 0x48 = s.rings.lcap ∧
    s.readOffset 0x4C = s.rings.rdesc ∧ s.readOffset 0x50 = s.rings.rbase ∧ s.readOffset 0x54 = s.rings.rcap ∧
    (s.cfg.rbHdrSize < 2 ^ 16 →
      (s.readOffset 0x58).toNat = s.cfg.rbHdrSize + 16 * 2 ^ 16 + 20 * 2 ^ 24) ∧
    s.readOffset 0x5C = 1040 ∧
    ∀ off : BitVec 8, off = 0x3C ∨ 0x60 ≤ off.toNat → s.readOffset off = 0

/-- `10_state.md` R15, rules 2, 3 and 5: a write at a reserved offset or to a read-only register is ignored; a write to an
argument register takes effect at BUSY = 0 and at BUSY = 1 is ignored and sets OVR. -/
def Obligations.RegisterPortWrites : Prop :=
  ∀ (s : State) (off : BitVec 8) (v : Word),
    (0x28 ≤ off.toNat → s.writeOffset off v = .next s) ∧
    (0x10 ≤ off.toNat → off.toNat ≤ 0x24 → off.toNat % 4 = 0 → s.fsm ≠ .idle →
      s.writeOffset off v = .next { s with status := { s.status with ovr := true } }) ∧
    (s.fsm = .idle →
      s.writeOffset 0x10 v = .next { s with args := { s.args with id := { s.args.id with w0 := v } } } ∧
      s.writeOffset 0x14 v = .next { s with args := { s.args with id := { s.args.id with w1 := v } } } ∧
      s.writeOffset 0x18 v = .next { s with args := { s.args with id := { s.args.id with w2 := v } } } ∧
      s.writeOffset 0x1C v = .next { s with args := { s.args with id := { s.args.id with w3 := v } } } ∧
      s.writeOffset 0x20 v = .next { s with args := { s.args with addr := v } } ∧
      s.writeOffset 0x24 v = .next { s with args := { s.args with len := v } })

/-- STATUS, IRQ_EN and IRQ_PEND are honoured at any time (`10_state.md` R15, rule 6): STATUS bit 5 clears OVR and nothing
else (R16), IRQ_EN bit 0 is RXIE, and IRQ_PEND bit 0 clears RXP while 0 leaves it (R20). -/
def Obligations.StatusAndInterruptWrites : Prop :=
  ∀ (s : State) (v : Word),
    s.writeOffset 0x04 v = .next
      { s with status := { s.status with ovr := if v.getLsbD 5 then false else s.status.ovr } } ∧
    s.writeOffset 0x08 v = .next { s with irq := { s.irq with rxie := v.getLsbD 0 } } ∧
    s.writeOffset 0x0C v = .next { s with irq := { s.irq with rxp := if v.getLsbD 0 then false else s.irq.rxp } }

/-- The STATUS word (`10_state.md` R16): each field stands at its bits, BUSY is `fsm != IDLE`, NEGP is live
(`42_negotiation.md` R109), and the reserved bits read 0; the numbers of FSM (R16), ERR and DETAIL (`30_encoding.md` R74,
R75) are the tables'. -/
def Obligations.StatusWordFields : Prop :=
  (∀ s : State, s.neg.ents.length ≤ 3 →
    let v := s.readOffset 0x04
    v.getLsbD 0 = decide (s.fsm ≠ .idle) ∧ v.getLsbD 1 = s.status.isOpen ∧ v.getLsbD 2 = s.status.rv ∧
    v.getLsbD 3 = (s.status.isOpen && decide (1 ≤ s.mbx.inbound.length)) ∧
    v.getLsbD 4 = s.status.hwf ∧ v.getLsbD 5 = s.status.ovr ∧
    v.extractLsb' 6 2 = s.fsm.code ∧ v.extractLsb' 8 4 = s.status.err.code ∧ v.extractLsb' 12 4 = s.status.lopc ∧
    v.extractLsb' 16 8 = s.status.detail.code ∧ (v.extractLsb' 24 2).toNat = s.neg.ents.length ∧
    v.extractLsb' 26 6 = 0#6) ∧
  ([Fsm.idle, .negWait, .exec].map Fsm.code = [0, 1, 2]) ∧
  ([ErrKind.ok, .parameter, .insufficientSpace, .negotiationFailed, .hardwareState].map ErrKind.code
    = [0, 1, 2, 3, 4]) ∧
  ([Detail.none, .illegalCmd, .notOpen, .alreadyOpen, .notNegotiated, .nullAddr, .zeroLen, .tooLong].map Detail.code
    = [0x00, 0x01, 0x02, 0x03, 0x04, 0x05, 0x06, 0x07]) ∧
  ([Detail.wrNoRoom, .rdEmpty, .rdLenStraddle, .rdBadLength, .rdDstTooSmall].map Detail.code
    = [0x10, 0x11, 0x12, 0x13, 0x14]) ∧
  ([Detail.negFifoError, .negUnknownTag, .negDupTag, .negBadLocalCap, .negBadRemoteCap, .negTimeout].map Detail.code
    = [0x20, 0x21, 0x22, 0x23, 0x24, 0x25]) ∧
  ([Detail.cursorInvalid, .hwfLatched, .busError].map Detail.code = [0x30, 0x31, 0x32]) ∧
  ∀ d : Detail, d.kind = (if d.code.toNat = 0 then .ok else if d.code.toNat < 0x10 then .parameter
    else if d.code.toNat < 0x20 then .insufficientSpace else if d.code.toNat < 0x30 then .negotiationFailed
    else .hardwareState)

/-! ### Interrupts, the mailbox and reset -/

/-- Signals in both directions (`60_exceptions.md` R158, R159, R160, R165 items 5 and 6). The partner's signal reaches the
line to the IRBC only on SW_IRQ_PORT and else leaves no trace. A delivery to the IRBC sets RXP iff OPEN = 1 and changes
nothing else of the IRBC; several signals may merge into it. A delivery to the partner is one event there and changes
nothing of the IRBC. `irq` is RXP and RXIE. The model's choices: a line is a count of signals sent and not delivered, of
which a delivery takes `extra + 1` or all that are left as one event (log 17), and a delivery is a turn of its own, one
without effect where none is under way (log 5). -/
def Obligations.PartnerEventsSetRxp : Prop :=
  ∀ s : State, s.irqLine = (s.irq.rxp && s.irq.rxie) ∧
    (∀ (port : Nat) (rest : List PartnerAct), s.env.partnerProg = .signal port :: rest →
      s.partnerTurn =
        { s with
          env := { s.env with partnerProg := rest }
          mbx := { s.mbx with sigFromPartner :=
            if port = s.cfg.swIrqPort then s.mbx.sigFromPartner + 1 else s.mbx.sigFromPartner } }) ∧
    (∀ (ts : List Turn) (extra : Nat), s.env.sched = .deliverToIrbc extra :: ts →
      step s = .next
        { s with
          env := { s.env with sched := ts }
          irq := { s.irq with rxp := s.irq.rxp || (s.status.isOpen && decide (0 < s.mbx.sigFromPartner)) }
          mbx := { s.mbx with sigFromPartner := s.mbx.sigFromPartner - (extra + 1) } }) ∧
    ∀ (ts : List Turn) (extra : Nat), s.env.sched = .deliverToPartner extra :: ts →
      step s = .next
        { s with
          env := { s.env with sched := ts }
          mbx := { s.mbx with
            sigToPartner := s.mbx.sigToPartner - (extra + 1)
            partnerIrqs := if 0 < s.mbx.sigToPartner then s.mbx.partnerIrqs + 1 else s.mbx.partnerIrqs } }

/-- `60_exceptions.md` R165: a push into a FIFO with room appends the entry; a push into a full FIFO is not an enabled step,
so the partner's program and the FIFO stay as they are. -/
def Obligations.FullFifoMakesThePartnerWait : Prop :=
  ∀ (s : State) (e : Entry) (rest : List PartnerAct), s.env.partnerProg = .push e :: rest →
    (s.mbx.inbound.length < s.cfg.mboxFifoDepth →
      s.partnerTurn.mbx = { s.mbx with inbound := s.mbx.inbound ++ [e] } ∧
      s.partnerTurn.env = { s.env with partnerProg := rest }) ∧
    (s.cfg.mboxFifoDepth ≤ s.mbx.inbound.length → s.partnerTurn = s)

/-- The reset input (`70_reset_and_hazards.md` R171, R172, R173): every register and internal element takes its reset value;
the mailbox and the other agents are untouched, and so is memory but for the bytes of an abandoned transfer, which
hold any value (`93_implementation_defined.md` I20): of a WRITE the bytes of its block, of a READ those of its
destination, and only while its data accesses or its publish are to come (log 13). -/
def Obligations.ResetInputRestoresRegisters : Prop :=
  ∀ (s : State) (ts : List Turn), s.env.sched = .reset :: ts → MemInv s →
    ∃ t, step s = .next t ∧
      t.status = State.reset.status ∧ t.irq = State.reset.irq ∧ t.args = State.reset.args ∧
      t.results = State.reset.results ∧ t.rings = State.reset.rings ∧ t.fsm = .idle ∧ t.neg = State.reset.neg ∧
      t.mbx = s.mbx ∧ t.cfg = s.cfg ∧ t.env = { s.env with sched := ts } ∧
      (s.fsm ≠ .exec → t.mem = s.mem) ∧
      (s.xfer.phase ≠ .data → s.xfer.phase ≠ .publish → t.mem = s.mem) ∧
      (s.xfer.cmd = .write → ∀ a : Word,
        (∀ k < 24 + s.args.len.toNat, a ≠ s.localRing.byteAddr s.cfg.rbHdrSize s.xfer.w.toNat k) →
        t.mem.read8 a = s.mem.read8 a) ∧
      (s.xfer.cmd = .read → ∀ a : Word,
        (∀ i < s.xfer.len.toNat - 20, a ≠ s.args.addr + BitVec.ofNat 32 i) → t.mem.read8 a = s.mem.read8 a)

/-- The registers right after reset (`70_reset_and_hazards.md` R172, `10_state.md` R14, R24): STATUS and every other register
read 0, PARAM0 and PARAM1 their constants, and the controller is idle with `irq` low. -/
def Obligations.ResetRegisterValues : Prop :=
  (∀ off : BitVec 8, off ≠ 0x58 → off ≠ 0x5C → State.reset.readOffset off = 0) ∧
  State.reset.readOffset 0x58 = 0x14100040 ∧ State.reset.readOffset 0x5C = 0x00000410 ∧
  State.reset.fsm = .idle ∧ State.reset.irqLine = false

/-! ### Whole-machine rules -/

/-- No command traps or halts the controller (`60_exceptions.md` R153, `00_scope.md` R11): every step from every state
answers a next state. The model's choices in it: an access that the register port refuses (`10_state.md` R15) is a next
state with an error response (log 16), and the turn of an agent with no enabled step (`42_negotiation.md` R105,
`60_exceptions.md` R165) is a next state in which it does nothing (log 5). -/
def Obligations.EveryStepAnswersNext : Prop := ∀ s : State, ∃ t, step s = .next t

/-- A run may start at `State.reset` and at every state that has the IRBC's registers and internal state at their reset
values (`70_reset_and_hazards.md` R172), whatever memory, the mailbox and the other agents hold and will do (R190); and
wherever a run may start, the machine's invariant and the event order's hold. That the model's record starts with no
event, and with any entries of before the start, is the model's choice (log 5, log 20). -/
def Obligations.ResetMeetsTheInvariant : Prop :=
  Initial State.reset ∧
  (∀ (p : Params) (m : Mem) (b : Mailbox) (v : Env) (old : List Entry),
    p.Valid → Mem.wf m = true → b.inbound.length ≤ p.mboxFifoDepth → Initial
      { State.reset with
        cfg := p, mem := m, mbx := b, env := v, ghost := { Ghost.start with entered := old ++ b.inbound } }) ∧
  ∀ s : State, Initial s → MachineInv s ∧ TraceInv s

/-- Every step keeps the invariant: the socket is in a state of `45_session.md` R149 with STATUS in agreement
(`10_state.md` R16 to R19, R23), a running WRITE or READ has passed its checks, the FIFO respects its depth, and memory
keeps its canonical form. -/
def Obligations.StepKeepsTheInvariant : Prop :=
  ∀ s t : State, MachineInv s → step s = .next t → MachineInv t

/-- Memory is what the recorded events make of it (`20_memory.md` R49, R52: the interleaving is a sequentially consistent
oracle; log 1, log 20): a step adds events that R49 allows to the trace, changes memory by exactly the writes among
them, and a byte they read that is neither in a race nor in an overlap has the value memory had. -/
def Obligations.MemoryReplaysTheTrace : Prop :=
  ∀ s t : State, MachineInv s → step s = .next t →
    ∃ es : List Event, t.ghost.trace = es ++ s.ghost.trace ∧ t.mem = replay es s.mem ∧ readsAgree es s.mem ∧
      ∀ e ∈ es, e.Wf

/-- The interleavings are executions that R52 (`20_memory.md`) admits: an ordered trace of events that R49 allows, whose
unmarked reads return what the older events left in memory, is a consistent execution, when the race marks are those of
real data races (R53), and whose pushes and pops agree with the FIFO contract (`60_exceptions.md` R165), a pop of a pushed
entry synchronising with its push. That the host and the partner perform their acts in program order is the model's choice
(log 1, log 26), and so are reading the latest earlier write and the order after a reset in mid-transfer (log 28). -/
def Obligations.InterleavingsAreConsistent : Prop :=
  ∀ (t : List Event) (m : Mem) (q : List Entry) (x : Execution),
    traceOrdered t → (∀ e ∈ t, e.Wf) → readsAgree t m → mailboxAgrees t q → Mem.wf m = true →
    x.OfTrace t.reverse m q → x.RacesJustified →
      x.Consistent ∧
      ∀ j f n, x.At j f → f.kind = .pop n → q.length ≤ n →
        ∃ i e, x.At i e ∧ e.kind = .push n ∧ e.bytes = f.bytes ∧ x.hb i j

/-- The order of the IRBC's events respects `ob` (`20_memory.md` R50, R51): in each command the acquire read comes first, the
release write after every data access, the signal after the release write, the length-field read before the reads that
depend on it; commands do not overlap; the host's CMD write comes before its command's events, and its STATUS read that
shows BUSY = 0 after them, which of a command that reset abandoned is the model's choice (log 28). Pushes and pops agree
with the FIFO contract (R52; `60_exceptions.md` R165). The cursor words are the same in every state of a run, whatever the
step: a push, the end of a negotiation, CLOSE, RESET, reset (DEDUCED, log 1). -/
def Obligations.StepKeepsTheEventOrder : Prop :=
  ∀ s t : State, MachineInv s → TraceInv s → step s = .next t →
    TraceInv t ∧ ∀ a, a ∈ t.cursorAddrs ↔ a ∈ s.cursorAddrs

/-- `10_state.md` R18: OPEN is set only by the controller's step that completes an OPEN with success, with RV, and cleared
only by CLOSE and by reset. A CLOSE is the host's write of 0x2 to CMD at BUSY = 0, or the controller's step that runs a
recorded abort of that word (`42_negotiation.md` R107); both complete OK. -/
def Obligations.OpenChangesOnlyByOpenCloseReset : Prop :=
  ∀ s t : State, MachineInv s → step s = .next t →
    (s.status.isOpen = false → t.status.isOpen = true →
      (∃ ch, s.controllerMoves ch) ∧ s.fsm = .negWait ∧ s.neg.kind = .openCmd ∧ t.fsm = .idle ∧ t.status.rv = true ∧
        t.status.err = .ok ∧ t.status.detail = .none ∧ t.status.lopc = 0x1) ∧
    (s.status.isOpen = true → t.status.isOpen = false →
      t.rings = ⟨0, 0, 0, 0, 0, 0⟩ ∧ t.irq = ⟨false, false⟩ ∧ t.status.rv = false ∧ t.status.hwf = false ∧
        t.fsm = .idle ∧ t.status.err = .ok ∧ t.status.detail = .none ∧
        ((s.hostWritesCmd 0x00000002 ∧ s.fsm = .idle ∧ t.status.lopc = 0x2) ∨
          ((∃ ch, s.controllerMoves ch) ∧ s.fsm = .negWait ∧ s.neg.abortReq = true ∧ s.neg.abortCmd = 0x00000002 ∧
            t.status.lopc = 0x2) ∨
          s.resetMoves))

/-- `10_state.md` R22: RID0..RID3 and RLEN change only in the controller's step that completes a READ with success, after its
signal, in the host's CMD write of NEGPEND at BUSY = 0 (RLEN alone), which completes OK, and at reset. -/
def Obligations.ResultsChangeOnlyOnSuccess : Prop :=
  ∀ s t : State, MachineInv s → step s = .next t → t.results ≠ s.results →
    ((∃ ch, s.controllerMoves ch) ∧ s.fsm = .exec ∧ s.xfer.cmd = .read ∧ s.xfer.phase = .signal ∧
      t.fsm = .idle ∧ t.status = { s.status with err := .ok, detail := .none } ∧ t.status.lopc = 0x7) ∨
    (s.hostWritesCmd 0x00000003 ∧ s.fsm = .idle ∧ s.status.isOpen = true ∧ t.fsm = .idle ∧
      t.status = { s.status with lopc := 0x3, err := .ok, detail := .none } ∧ t.results.rid = s.results.rid) ∨
    s.resetMoves

/-- `10_state.md` R19, `60_exceptions.md` R163: HWF is set only in a controller's step that completes a WRITE or READ with
HardwareState, and cleared only by a successful negotiation, by RESET or CLOSE, written to CMD at BUSY = 0 or run as a
recorded abort (`42_negotiation.md` R107), each completing OK, and by reset; while it is set no WRITE or READ is
running. -/
def Obligations.HwfLatchesUntilRecovery : Prop :=
  ∀ s t : State, MachineInv s → step s = .next t →
    (s.status.hwf = true → s.fsm ≠ .exec) ∧
    (s.status.hwf = false → t.status.hwf = true →
      (∃ ch, s.controllerMoves ch) ∧ s.fsm = .exec ∧ t.fsm = .idle ∧ t.status.err = .hardwareState) ∧
    (s.status.hwf = true → t.status.hwf = false →
      t.fsm = .idle ∧ t.status.err = .ok ∧ t.status.detail = .none ∧
      (((∃ ch, s.controllerMoves ch) ∧ s.fsm = .negWait ∧ s.neg.abortReq = false ∧ t.status.rv = true) ∨
        (s.fsm = .idle ∧ (s.hostWritesCmd 0x00000002 ∨ s.hostWritesCmd 0x00000005 ∨ s.hostWritesCmd 0x00000015)) ∨
        ((∃ ch, s.controllerMoves ch) ∧ s.fsm = .negWait ∧ s.neg.abortReq = true ∧
          (s.neg.abortCmd = 0x00000002 ∨ s.neg.abortCmd = 0x00000005 ∨ s.neg.abortCmd = 0x00000015)) ∨
        s.resetMoves))

/-- `43_write.md` R125, `44_read.md` R140: a signal is sent to the partner only by the controller's step that completes a WRITE
or READ OK, and that step sends exactly one; no other step adds one, the host's CMD write included, and only a delivery
takes any off the line (log 17). -/
def Obligations.SignalOnlyOnSuccess : Prop :=
  ∀ s t : State, step s = .next t →
    ((∃ ch, s.controllerMoves ch) → s.fsm = .exec → s.xfer.phase = .signal →
      t.mbx = { s.mbx with sigToPartner := s.mbx.sigToPartner + 1 } ∧
        t.fsm = .idle ∧ t.status = { s.status with err := .ok, detail := .none }) ∧
    (¬ ((∃ ch, s.controllerMoves ch) ∧ s.fsm = .exec ∧ s.xfer.phase = .signal) →
      t.mbx.sigToPartner ≤ s.mbx.sigToPartner ∧
        ((∀ n ts, s.env.sched ≠ .deliverToPartner n :: ts) → t.mbx.sigToPartner = s.mbx.sigToPartner))

/-- What acts besides the controller's own commands, register writes, the timeout and reset changes no stored register field of
the IRBC but RXP and nothing of its internal state (`70_reset_and_hazards.md` R190, `10_state.md` R15): every turn of the
partner and of the mailbox, of which a delivery to the IRBC changes RXP at most (`60_exceptions.md` R158: "it changes
nothing but RXP"), and every turn of the host whose next act is no register write, so a byte or 32-bit load or store of
memory, an acquire load, a release store, a poll, a register read; those change neither RXP nor the mailbox, and a poll or a
register read no memory either. So every register reads as before, but for RXP in IRQ_PEND and for NEGP in STATUS, which is
live and follows the inbound FIFO (`10_state.md` R16, `42_negotiation.md` R109) that the partner pushes to and clears. At most one event is recorded,
none of the controller (log 20). That none of them adds an entry to the outbound FIFO is the model's choice (log 18,
DEDUCED from `10_state.md` R32 and `45_session.md` R148). -/
def Obligations.OtherAgentsChangeNoRegister : Prop :=
  ∀ (s t : State) (ts : List Turn), step s = .next t →
    let hostActs := s.env.sched = .host :: ts ∧ ∀ acc v rest, s.env.hostProg ≠ .regWrite acc v :: rest
    (hostActs ∨ s.env.sched = .partner :: ts ∨ (∃ n, s.env.sched = .deliverToIrbc n :: ts) ∨
        ∃ n, s.env.sched = .deliverToPartner n :: ts) →
      t.status = s.status ∧ t.irq.rxie = s.irq.rxie ∧ t.args = s.args ∧ t.results = s.results ∧ t.rings = s.rings ∧
      t.fsm = s.fsm ∧ t.neg = s.neg ∧ t.xfer = s.xfer ∧ t.cfg = s.cfg ∧ t.mbx.outbound <:+ s.mbx.outbound ∧
      ((∀ n, s.env.sched ≠ .deliverToIrbc n :: ts) → t.irq = s.irq) ∧
      (∀ off : BitVec 8, off ≠ 0x04 → off ≠ 0x0C → t.readOffset off = s.readOffset off) ∧
      (∀ i, i ≠ 3 → (t.readOffset 0x04).getLsbD i = (s.readOffset 0x04).getLsbD i) ∧
      (t.readOffset 0x04).getLsbD 3 = (s.status.isOpen && decide (1 ≤ t.mbx.inbound.length)) ∧
      (hostActs → t.mbx = s.mbx ∧ ∀ off : BitVec 8, t.readOffset off = s.readOffset off) ∧
      (hostActs → (∀ acc mask value rest, s.env.hostProg = .poll acc mask value :: rest → t.mem = s.mem) ∧
        ∀ acc rest, s.env.hostProg = .regRead acc :: rest → t.mem = s.mem) ∧
      ∃ es : List Event, t.ghost.trace = es ++ s.ghost.trace ∧ es.length ≤ 1 ∧ ∀ e ∈ es, e.agent ≠ .controller

/-- `42_negotiation.md` R106: the timeout event comes only while NEG_TIMEOUT is enabled and the controller is held; else, and
so with the timeout disabled, the turn changes nothing. That the event is a flag which stays pending is the model's
choice (log 14). -/
def Obligations.TimeoutOnlyWhileHeld : Prop :=
  ∀ (s : State) (ts : List Turn), s.env.sched = .timeout :: ts →
    step s = .next
      { s with
        env := { s.env with sched := ts }
        neg := { s.neg with
          timeoutEv := s.neg.timeoutEv ||
            decide (s.cfg.negTimeout = true ∧ s.fsm = .negWait ∧ s.mbx.inbound = [] ∧ s.neg.abortReq = false) } }
end

