-- ==== Sys2Proof/Laws/State.lean ====
section
/-! SUPPORT. One lemma per field of State per update, true by rfl and tagged simp, so that no later proof unfolds a
record update. -/

namespace Sys2Proof.Machine

variable (s : State)

/-! ### emit -/

@[simp] theorem State.emit_cfg (ag : Agent) (k : EventKind) (a : Word) (v : List EventByte) :
    (s.emit ag k a v).cfg = s.cfg := rfl
@[simp] theorem State.emit_status (ag : Agent) (k : EventKind) (a : Word) (v : List EventByte) :
    (s.emit ag k a v).status = s.status := rfl
@[simp] theorem State.emit_irq (ag : Agent) (k : EventKind) (a : Word) (v : List EventByte) :
    (s.emit ag k a v).irq = s.irq := rfl
@[simp] theorem State.emit_args (ag : Agent) (k : EventKind) (a : Word) (v : List EventByte) :
    (s.emit ag k a v).args = s.args := rfl
@[simp] theorem State.emit_results (ag : Agent) (k : EventKind) (a : Word) (v : List EventByte) :
    (s.emit ag k a v).results = s.results := rfl
@[simp] theorem State.emit_rings (ag : Agent) (k : EventKind) (a : Word) (v : List EventByte) :
    (s.emit ag k a v).rings = s.rings := rfl
@[simp] theorem State.emit_fsm (ag : Agent) (k : EventKind) (a : Word) (v : List EventByte) :
    (s.emit ag k a v).fsm = s.fsm := rfl
@[simp] theorem State.emit_neg (ag : Agent) (k : EventKind) (a : Word) (v : List EventByte) :
    (s.emit ag k a v).neg = s.neg := rfl
@[simp] theorem State.emit_xfer (ag : Agent) (k : EventKind) (a : Word) (v : List EventByte) :
    (s.emit ag k a v).xfer = s.xfer := rfl
@[simp] theorem State.emit_mem (ag : Agent) (k : EventKind) (a : Word) (v : List EventByte) :
    (s.emit ag k a v).mem = s.mem := rfl
@[simp] theorem State.emit_mbx (ag : Agent) (k : EventKind) (a : Word) (v : List EventByte) :
    (s.emit ag k a v).mbx = s.mbx := rfl
@[simp] theorem State.emit_env (ag : Agent) (k : EventKind) (a : Word) (v : List EventByte) :
    (s.emit ag k a v).env = s.env := rfl
@[simp] theorem State.emit_ghost (ag : Agent) (k : EventKind) (a : Word) (v : List EventByte) :
    (s.emit ag k a v).ghost =
      { s.ghost with
        trace :=
          { agent := ag, cmdNo := s.ghost.cmdNo, kind := k, addr := a, bytes := v
            cursor := s.cursorAccess k a v.length } :: s.ghost.trace } := rfl

/-! ### loadBytes -/

@[simp] theorem State.loadBytes_cfg (ag : Agent) (k : EventKind) (a : Word) (v : List EventByte) :
    (s.loadBytes ag k a v).cfg = s.cfg := rfl
@[simp] theorem State.loadBytes_status (ag : Agent) (k : EventKind) (a : Word) (v : List EventByte) :
    (s.loadBytes ag k a v).status = s.status := rfl
@[simp] theorem State.loadBytes_irq (ag : Agent) (k : EventKind) (a : Word) (v : List EventByte) :
    (s.loadBytes ag k a v).irq = s.irq := rfl
@[simp] theorem State.loadBytes_args (ag : Agent) (k : EventKind) (a : Word) (v : List EventByte) :
    (s.loadBytes ag k a v).args = s.args := rfl
@[simp] theorem State.loadBytes_results (ag : Agent) (k : EventKind) (a : Word) (v : List EventByte) :
    (s.loadBytes ag k a v).results = s.results := rfl
@[simp] theorem State.loadBytes_rings (ag : Agent) (k : EventKind) (a : Word) (v : List EventByte) :
    (s.loadBytes ag k a v).rings = s.rings := rfl
@[simp] theorem State.loadBytes_fsm (ag : Agent) (k : EventKind) (a : Word) (v : List EventByte) :
    (s.loadBytes ag k a v).fsm = s.fsm := rfl
@[simp] theorem State.loadBytes_neg (ag : Agent) (k : EventKind) (a : Word) (v : List EventByte) :
    (s.loadBytes ag k a v).neg = s.neg := rfl
@[simp] theorem State.loadBytes_xfer (ag : Agent) (k : EventKind) (a : Word) (v : List EventByte) :
    (s.loadBytes ag k a v).xfer = s.xfer := rfl
@[simp] theorem State.loadBytes_mem (ag : Agent) (k : EventKind) (a : Word) (v : List EventByte) :
    (s.loadBytes ag k a v).mem = s.mem := rfl
@[simp] theorem State.loadBytes_mbx (ag : Agent) (k : EventKind) (a : Word) (v : List EventByte) :
    (s.loadBytes ag k a v).mbx = s.mbx := rfl
@[simp] theorem State.loadBytes_env (ag : Agent) (k : EventKind) (a : Word) (v : List EventByte) :
    (s.loadBytes ag k a v).env = s.env := rfl
@[simp] theorem State.loadBytes_ghost (ag : Agent) (k : EventKind) (a : Word) (v : List EventByte) :
    (s.loadBytes ag k a v).ghost =
      { s.ghost with
        draws := s.ghost.draws + v.length
        trace :=
          { agent := ag, cmdNo := s.ghost.cmdNo, kind := k, addr := a, bytes := v
            cursor := s.cursorAccess k a v.length } :: s.ghost.trace } := rfl

/-! ### storeBytes -/

@[simp] theorem State.storeBytes_cfg (ag : Agent) (k : EventKind) (a : Word) (v : List EventByte) :
    (s.storeBytes ag k a v).cfg = s.cfg := rfl
@[simp] theorem State.storeBytes_status (ag : Agent) (k : EventKind) (a : Word) (v : List EventByte) :
    (s.storeBytes ag k a v).status = s.status := rfl
@[simp] theorem State.storeBytes_irq (ag : Agent) (k : EventKind) (a : Word) (v : List EventByte) :
    (s.storeBytes ag k a v).irq = s.irq := rfl
@[simp] theorem State.storeBytes_args (ag : Agent) (k : EventKind) (a : Word) (v : List EventByte) :
    (s.storeBytes ag k a v).args = s.args := rfl
@[simp] theorem State.storeBytes_results (ag : Agent) (k : EventKind) (a : Word) (v : List EventByte) :
    (s.storeBytes ag k a v).results = s.results := rfl
@[simp] theorem State.storeBytes_rings (ag : Agent) (k : EventKind) (a : Word) (v : List EventByte) :
    (s.storeBytes ag k a v).rings = s.rings := rfl
@[simp] theorem State.storeBytes_fsm (ag : Agent) (k : EventKind) (a : Word) (v : List EventByte) :
    (s.storeBytes ag k a v).fsm = s.fsm := rfl
@[simp] theorem State.storeBytes_neg (ag : Agent) (k : EventKind) (a : Word) (v : List EventByte) :
    (s.storeBytes ag k a v).neg = s.neg := rfl
@[simp] theorem State.storeBytes_xfer (ag : Agent) (k : EventKind) (a : Word) (v : List EventByte) :
    (s.storeBytes ag k a v).xfer = s.xfer := rfl
@[simp] theorem State.storeBytes_mem (ag : Agent) (k : EventKind) (a : Word) (v : List EventByte) :
    (s.storeBytes ag k a v).mem = s.mem.writeBytes a (v.map EventByte.val) := rfl
@[simp] theorem State.storeBytes_mbx (ag : Agent) (k : EventKind) (a : Word) (v : List EventByte) :
    (s.storeBytes ag k a v).mbx = s.mbx := rfl
@[simp] theorem State.storeBytes_env (ag : Agent) (k : EventKind) (a : Word) (v : List EventByte) :
    (s.storeBytes ag k a v).env = s.env := rfl
@[simp] theorem State.storeBytes_ghost (ag : Agent) (k : EventKind) (a : Word) (v : List EventByte) :
    (s.storeBytes ag k a v).ghost =
      { s.ghost with
        draws := s.ghost.draws + v.length
        trace :=
          { agent := ag, cmdNo := s.ghost.cmdNo, kind := k, addr := a, bytes := v
            cursor := s.cursorAccess k a v.length } :: s.ghost.trace } := rfl

/-! ### acceptCmd -/

@[simp] theorem State.acceptCmd_cfg (i : Instr) : (s.acceptCmd i).cfg = s.cfg := rfl
@[simp] theorem State.acceptCmd_status (i : Instr) : (s.acceptCmd i).status = s.status := rfl
@[simp] theorem State.acceptCmd_irq (i : Instr) : (s.acceptCmd i).irq = s.irq := rfl
@[simp] theorem State.acceptCmd_args (i : Instr) : (s.acceptCmd i).args = s.args := rfl
@[simp] theorem State.acceptCmd_results (i : Instr) : (s.acceptCmd i).results = s.results := rfl
@[simp] theorem State.acceptCmd_rings (i : Instr) : (s.acceptCmd i).rings = s.rings := rfl
@[simp] theorem State.acceptCmd_fsm (i : Instr) : (s.acceptCmd i).fsm = s.fsm := rfl
@[simp] theorem State.acceptCmd_neg (i : Instr) : (s.acceptCmd i).neg = { s.neg with cmdWord := firstWord i } := rfl
@[simp] theorem State.acceptCmd_xfer (i : Instr) : (s.acceptCmd i).xfer = s.xfer := rfl
@[simp] theorem State.acceptCmd_mem (i : Instr) : (s.acceptCmd i).mem = s.mem := rfl
@[simp] theorem State.acceptCmd_mbx (i : Instr) : (s.acceptCmd i).mbx = s.mbx := rfl
@[simp] theorem State.acceptCmd_env (i : Instr) : (s.acceptCmd i).env = s.env := rfl
@[simp] theorem State.acceptCmd_ghost (i : Instr) : (s.acceptCmd i).ghost = s.ghost := rfl

/-! ### beginCmd -/

@[simp] theorem State.beginCmd_cfg : (s.beginCmd).cfg = s.cfg := rfl
@[simp] theorem State.beginCmd_status : (s.beginCmd).status = s.status := rfl
@[simp] theorem State.beginCmd_irq : (s.beginCmd).irq = s.irq := rfl
@[simp] theorem State.beginCmd_args : (s.beginCmd).args = s.args := rfl
@[simp] theorem State.beginCmd_results : (s.beginCmd).results = s.results := rfl
@[simp] theorem State.beginCmd_rings : (s.beginCmd).rings = s.rings := rfl
@[simp] theorem State.beginCmd_fsm : (s.beginCmd).fsm = s.fsm := rfl
@[simp] theorem State.beginCmd_neg : (s.beginCmd).neg = s.neg := rfl
@[simp] theorem State.beginCmd_xfer : (s.beginCmd).xfer = s.xfer := rfl
@[simp] theorem State.beginCmd_mem : (s.beginCmd).mem = s.mem := rfl
@[simp] theorem State.beginCmd_mbx : (s.beginCmd).mbx = s.mbx := rfl
@[simp] theorem State.beginCmd_env : (s.beginCmd).env = s.env := rfl
@[simp] theorem State.beginCmd_ghost :
    (s.beginCmd).ghost =
      { s.ghost with
        cmdNo := s.ghost.cmdNo + 1
        trace :=
          { agent := .host, cmdNo := s.ghost.cmdNo + 1, kind := .cmdWrite, addr := 0, bytes := []
            cursor := false } :: s.ghost.trace } := rfl

/-! ### drawn -/

@[simp] theorem State.drawn_cfg (n : Nat) : (s.drawn n).cfg = s.cfg := rfl
@[simp] theorem State.drawn_status (n : Nat) : (s.drawn n).status = s.status := rfl
@[simp] theorem State.drawn_irq (n : Nat) : (s.drawn n).irq = s.irq := rfl
@[simp] theorem State.drawn_args (n : Nat) : (s.drawn n).args = s.args := rfl
@[simp] theorem State.drawn_results (n : Nat) : (s.drawn n).results = s.results := rfl
@[simp] theorem State.drawn_rings (n : Nat) : (s.drawn n).rings = s.rings := rfl
@[simp] theorem State.drawn_fsm (n : Nat) : (s.drawn n).fsm = s.fsm := rfl
@[simp] theorem State.drawn_neg (n : Nat) : (s.drawn n).neg = s.neg := rfl
@[simp] theorem State.drawn_xfer (n : Nat) : (s.drawn n).xfer = s.xfer := rfl
@[simp] theorem State.drawn_mem (n : Nat) : (s.drawn n).mem = s.mem := rfl
@[simp] theorem State.drawn_mbx (n : Nat) : (s.drawn n).mbx = s.mbx := rfl
@[simp] theorem State.drawn_env (n : Nat) : (s.drawn n).env = s.env := rfl
@[simp] theorem State.drawn_ghost (n : Nat) : (s.drawn n).ghost = { s.ghost with draws := s.ghost.draws + n } := rfl

/-! ### raise -/

@[simp] theorem State.raise_cfg (d : Detail) : (s.raise d).cfg = s.cfg := rfl
@[simp] theorem State.raise_status (d : Detail) :
    (s.raise d).status = { s.status with err := d.kind, detail := d } := rfl
@[simp] theorem State.raise_irq (d : Detail) : (s.raise d).irq = s.irq := rfl
@[simp] theorem State.raise_args (d : Detail) : (s.raise d).args = s.args := rfl
@[simp] theorem State.raise_results (d : Detail) : (s.raise d).results = s.results := rfl
@[simp] theorem State.raise_rings (d : Detail) : (s.raise d).rings = s.rings := rfl
@[simp] theorem State.raise_fsm (d : Detail) : (s.raise d).fsm = .idle := rfl
@[simp] theorem State.raise_neg (d : Detail) : (s.raise d).neg = s.neg := rfl
@[simp] theorem State.raise_xfer (d : Detail) : (s.raise d).xfer = s.xfer := rfl
@[simp] theorem State.raise_mem (d : Detail) : (s.raise d).mem = s.mem := rfl
@[simp] theorem State.raise_mbx (d : Detail) : (s.raise d).mbx = s.mbx := rfl
@[simp] theorem State.raise_env (d : Detail) : (s.raise d).env = s.env := rfl
@[simp] theorem State.raise_ghost (d : Detail) : (s.raise d).ghost = s.ghost := rfl

/-! ### complete -/

@[simp] theorem State.complete_cfg : (s.complete).cfg = s.cfg := rfl
@[simp] theorem State.complete_status : (s.complete).status = { s.status with err := .ok, detail := .none } := rfl
@[simp] theorem State.complete_irq : (s.complete).irq = s.irq := rfl
@[simp] theorem State.complete_args : (s.complete).args = s.args := rfl
@[simp] theorem State.complete_results : (s.complete).results = s.results := rfl
@[simp] theorem State.complete_rings : (s.complete).rings = s.rings := rfl
@[simp] theorem State.complete_fsm : (s.complete).fsm = .idle := rfl
@[simp] theorem State.complete_neg : (s.complete).neg = s.neg := rfl
@[simp] theorem State.complete_xfer : (s.complete).xfer = s.xfer := rfl
@[simp] theorem State.complete_mem : (s.complete).mem = s.mem := rfl
@[simp] theorem State.complete_mbx : (s.complete).mbx = s.mbx := rfl
@[simp] theorem State.complete_env : (s.complete).env = s.env := rfl
@[simp] theorem State.complete_ghost : (s.complete).ghost = s.ghost := rfl

/-! ### raiseHwf -/

@[simp] theorem State.raiseHwf_cfg (d : Detail) : (s.raiseHwf d).cfg = s.cfg := rfl
@[simp] theorem State.raiseHwf_status (d : Detail) :
    (s.raiseHwf d).status = { s.status with hwf := true, err := d.kind, detail := d } := rfl
@[simp] theorem State.raiseHwf_irq (d : Detail) : (s.raiseHwf d).irq = s.irq := rfl
@[simp] theorem State.raiseHwf_args (d : Detail) : (s.raiseHwf d).args = s.args := rfl
@[simp] theorem State.raiseHwf_results (d : Detail) : (s.raiseHwf d).results = s.results := rfl
@[simp] theorem State.raiseHwf_rings (d : Detail) : (s.raiseHwf d).rings = s.rings := rfl
@[simp] theorem State.raiseHwf_fsm (d : Detail) : (s.raiseHwf d).fsm = .idle := rfl
@[simp] theorem State.raiseHwf_neg (d : Detail) : (s.raiseHwf d).neg = s.neg := rfl
@[simp] theorem State.raiseHwf_xfer (d : Detail) : (s.raiseHwf d).xfer = s.xfer := rfl
@[simp] theorem State.raiseHwf_mem (d : Detail) : (s.raiseHwf d).mem = s.mem := rfl
@[simp] theorem State.raiseHwf_mbx (d : Detail) : (s.raiseHwf d).mbx = s.mbx := rfl
@[simp] theorem State.raiseHwf_env (d : Detail) : (s.raiseHwf d).env = s.env := rfl
@[simp] theorem State.raiseHwf_ghost (d : Detail) : (s.raiseHwf d).ghost = s.ghost := rfl

/-! ### busFail -/

@[simp] theorem State.busFail_cfg : (s.busFail).cfg = s.cfg := rfl
@[simp] theorem State.busFail_status :
    (s.busFail).status = { s.status with hwf := true, err := .hardwareState, detail := .busError } := rfl
@[simp] theorem State.busFail_irq : (s.busFail).irq = s.irq := rfl
@[simp] theorem State.busFail_args : (s.busFail).args = s.args := rfl
@[simp] theorem State.busFail_results : (s.busFail).results = s.results := rfl
@[simp] theorem State.busFail_rings : (s.busFail).rings = s.rings := rfl
@[simp] theorem State.busFail_fsm : (s.busFail).fsm = .idle := rfl
@[simp] theorem State.busFail_neg : (s.busFail).neg = s.neg := rfl
@[simp] theorem State.busFail_xfer : (s.busFail).xfer = s.xfer := rfl
@[simp] theorem State.busFail_mem : (s.busFail).mem = s.mem := rfl
@[simp] theorem State.busFail_mbx : (s.busFail).mbx = s.mbx := rfl
@[simp] theorem State.busFail_env : (s.busFail).env = s.env := rfl
@[simp] theorem State.busFail_ghost : (s.busFail).ghost = s.ghost := rfl

/-! ### setLopc -/

@[simp] theorem State.setLopc_cfg (o : BitVec 4) : (s.setLopc o).cfg = s.cfg := rfl
@[simp] theorem State.setLopc_status (o : BitVec 4) : (s.setLopc o).status = { s.status with lopc := o } := rfl
@[simp] theorem State.setLopc_irq (o : BitVec 4) : (s.setLopc o).irq = s.irq := rfl
@[simp] theorem State.setLopc_args (o : BitVec 4) : (s.setLopc o).args = s.args := rfl
@[simp] theorem State.setLopc_results (o : BitVec 4) : (s.setLopc o).results = s.results := rfl
@[simp] theorem State.setLopc_rings (o : BitVec 4) : (s.setLopc o).rings = s.rings := rfl
@[simp] theorem State.setLopc_fsm (o : BitVec 4) : (s.setLopc o).fsm = s.fsm := rfl
@[simp] theorem State.setLopc_neg (o : BitVec 4) : (s.setLopc o).neg = s.neg := rfl
@[simp] theorem State.setLopc_xfer (o : BitVec 4) : (s.setLopc o).xfer = s.xfer := rfl
@[simp] theorem State.setLopc_mem (o : BitVec 4) : (s.setLopc o).mem = s.mem := rfl
@[simp] theorem State.setLopc_mbx (o : BitVec 4) : (s.setLopc o).mbx = s.mbx := rfl
@[simp] theorem State.setLopc_env (o : BitVec 4) : (s.setLopc o).env = s.env := rfl
@[simp] theorem State.setLopc_ghost (o : BitVec 4) : (s.setLopc o).ghost = s.ghost := rfl

/-! ### overrun -/

@[simp] theorem State.overrun_cfg : (s.overrun).cfg = s.cfg := rfl
@[simp] theorem State.overrun_status : (s.overrun).status = { s.status with ovr := true } := rfl
@[simp] theorem State.overrun_irq : (s.overrun).irq = s.irq := rfl
@[simp] theorem State.overrun_args : (s.overrun).args = s.args := rfl
@[simp] theorem State.overrun_results : (s.overrun).results = s.results := rfl
@[simp] theorem State.overrun_rings : (s.overrun).rings = s.rings := rfl
@[simp] theorem State.overrun_fsm : (s.overrun).fsm = s.fsm := rfl
@[simp] theorem State.overrun_neg : (s.overrun).neg = s.neg := rfl
@[simp] theorem State.overrun_xfer : (s.overrun).xfer = s.xfer := rfl
@[simp] theorem State.overrun_mem : (s.overrun).mem = s.mem := rfl
@[simp] theorem State.overrun_mbx : (s.overrun).mbx = s.mbx := rfl
@[simp] theorem State.overrun_env : (s.overrun).env = s.env := rfl
@[simp] theorem State.overrun_ghost : (s.overrun).ghost = s.ghost := rfl

/-! ### requestAbort -/

@[simp] theorem State.requestAbort_cfg (i : Instr) : (s.requestAbort i).cfg = s.cfg := rfl
@[simp] theorem State.requestAbort_status (i : Instr) : (s.requestAbort i).status = s.status := rfl
@[simp] theorem State.requestAbort_irq (i : Instr) : (s.requestAbort i).irq = s.irq := rfl
@[simp] theorem State.requestAbort_args (i : Instr) : (s.requestAbort i).args = s.args := rfl
@[simp] theorem State.requestAbort_results (i : Instr) : (s.requestAbort i).results = s.results := rfl
@[simp] theorem State.requestAbort_rings (i : Instr) : (s.requestAbort i).rings = s.rings := rfl
@[simp] theorem State.requestAbort_fsm (i : Instr) : (s.requestAbort i).fsm = s.fsm := rfl
@[simp] theorem State.requestAbort_neg (i : Instr) :
    (s.requestAbort i).neg = { s.neg with abortReq := true, abortCmd := firstWord i, cmdWord := firstWord i } := rfl
@[simp] theorem State.requestAbort_xfer (i : Instr) : (s.requestAbort i).xfer = s.xfer := rfl
@[simp] theorem State.requestAbort_mem (i : Instr) : (s.requestAbort i).mem = s.mem := rfl
@[simp] theorem State.requestAbort_mbx (i : Instr) : (s.requestAbort i).mbx = s.mbx := rfl
@[simp] theorem State.requestAbort_env (i : Instr) : (s.requestAbort i).env = s.env := rfl
@[simp] theorem State.requestAbort_ghost (i : Instr) : (s.requestAbort i).ghost = s.ghost := rfl

/-! ### unsetRings -/

@[simp] theorem State.unsetRings_cfg : (s.unsetRings).cfg = s.cfg := rfl
@[simp] theorem State.unsetRings_status : (s.unsetRings).status = { s.status with rv := false } := rfl
@[simp] theorem State.unsetRings_irq : (s.unsetRings).irq = s.irq := rfl
@[simp] theorem State.unsetRings_args : (s.unsetRings).args = s.args := rfl
@[simp] theorem State.unsetRings_results : (s.unsetRings).results = s.results := rfl
@[simp] theorem State.unsetRings_rings : (s.unsetRings).rings = Rings.unset := rfl
@[simp] theorem State.unsetRings_fsm : (s.unsetRings).fsm = s.fsm := rfl
@[simp] theorem State.unsetRings_neg : (s.unsetRings).neg = s.neg := rfl
@[simp] theorem State.unsetRings_xfer : (s.unsetRings).xfer = s.xfer := rfl
@[simp] theorem State.unsetRings_mem : (s.unsetRings).mem = s.mem := rfl
@[simp] theorem State.unsetRings_mbx : (s.unsetRings).mbx = s.mbx := rfl
@[simp] theorem State.unsetRings_env : (s.unsetRings).env = s.env := rfl
@[simp] theorem State.unsetRings_ghost : (s.unsetRings).ghost = s.ghost := rfl

/-! ### closeEffects -/

@[simp] theorem State.closeEffects_cfg : (s.closeEffects).cfg = s.cfg := rfl
@[simp] theorem State.closeEffects_status :
    (s.closeEffects).status = { s.status with isOpen := false, rv := false, hwf := false } := rfl
@[simp] theorem State.closeEffects_irq : (s.closeEffects).irq = { rxie := false, rxp := false } := rfl
@[simp] theorem State.closeEffects_args : (s.closeEffects).args = s.args := rfl
@[simp] theorem State.closeEffects_results : (s.closeEffects).results = s.results := rfl
@[simp] theorem State.closeEffects_rings : (s.closeEffects).rings = Rings.unset := rfl
@[simp] theorem State.closeEffects_fsm : (s.closeEffects).fsm = s.fsm := rfl
@[simp] theorem State.closeEffects_neg : (s.closeEffects).neg = s.neg := rfl
@[simp] theorem State.closeEffects_xfer : (s.closeEffects).xfer = s.xfer := rfl
@[simp] theorem State.closeEffects_mem : (s.closeEffects).mem = s.mem := rfl
@[simp] theorem State.closeEffects_mbx : (s.closeEffects).mbx = s.mbx := rfl
@[simp] theorem State.closeEffects_env : (s.closeEffects).env = s.env := rfl
@[simp] theorem State.closeEffects_ghost : (s.closeEffects).ghost = s.ghost := rfl

/-! ### resetEffects -/

@[simp] theorem State.resetEffects_cfg (b : Bool) : (s.resetEffects b).cfg = s.cfg := rfl
@[simp] theorem State.resetEffects_status (b : Bool) :
    (s.resetEffects b).status = { s.status with rv := false, hwf := false } := rfl
@[simp] theorem State.resetEffects_irq (b : Bool) : (s.resetEffects b).irq = s.irq := rfl
@[simp] theorem State.resetEffects_args (b : Bool) : (s.resetEffects b).args = s.args := rfl
@[simp] theorem State.resetEffects_results (b : Bool) : (s.resetEffects b).results = s.results := rfl
@[simp] theorem State.resetEffects_rings (b : Bool) : (s.resetEffects b).rings = Rings.unset := rfl
@[simp] theorem State.resetEffects_fsm (b : Bool) : (s.resetEffects b).fsm = s.fsm := rfl
@[simp] theorem State.resetEffects_neg (b : Bool) : (s.resetEffects b).neg = s.neg := rfl
@[simp] theorem State.resetEffects_xfer (b : Bool) : (s.resetEffects b).xfer = s.xfer := rfl
@[simp] theorem State.resetEffects_mem (b : Bool) : (s.resetEffects b).mem = s.mem := rfl
@[simp] theorem State.resetEffects_mbx (b : Bool) : (s.resetEffects b).mbx = s.mbx.clear b := rfl
@[simp] theorem State.resetEffects_env (b : Bool) : (s.resetEffects b).env = s.env := rfl
@[simp] theorem State.resetEffects_ghost (b : Bool) : (s.resetEffects b).ghost = s.ghost := rfl

/-! ### negStart -/

@[simp] theorem State.negStart_cfg (k : NegKind) : (s.negStart k).cfg = s.cfg := rfl
@[simp] theorem State.negStart_status (k : NegKind) : (s.negStart k).status = { s.status with rv := false } := rfl
@[simp] theorem State.negStart_irq (k : NegKind) : (s.negStart k).irq = s.irq := rfl
@[simp] theorem State.negStart_args (k : NegKind) : (s.negStart k).args = s.args := rfl
@[simp] theorem State.negStart_results (k : NegKind) : (s.negStart k).results = s.results := rfl
@[simp] theorem State.negStart_rings (k : NegKind) : (s.negStart k).rings = Rings.unset := rfl
@[simp] theorem State.negStart_fsm (k : NegKind) : (s.negStart k).fsm = .negWait := rfl
@[simp] theorem State.negStart_neg (k : NegKind) :
    (s.negStart k).neg = { s.neg with kind := k, ents := [], timeoutEv := false } := rfl
@[simp] theorem State.negStart_xfer (k : NegKind) : (s.negStart k).xfer = s.xfer := rfl
@[simp] theorem State.negStart_mem (k : NegKind) : (s.negStart k).mem = s.mem := rfl
@[simp] theorem State.negStart_mbx (k : NegKind) : (s.negStart k).mbx = s.mbx := rfl
@[simp] theorem State.negStart_env (k : NegKind) : (s.negStart k).env = s.env := rfl
@[simp] theorem State.negStart_ghost (k : NegKind) : (s.negStart k).ghost = s.beginCmd.ghost := rfl

/-! ### negOver -/

@[simp] theorem State.negOver_cfg : (s.negOver).cfg = s.cfg := rfl
@[simp] theorem State.negOver_status : (s.negOver).status = s.status := rfl
@[simp] theorem State.negOver_irq : (s.negOver).irq = s.irq := rfl
@[simp] theorem State.negOver_args : (s.negOver).args = s.args := rfl
@[simp] theorem State.negOver_results : (s.negOver).results = s.results := rfl
@[simp] theorem State.negOver_rings : (s.negOver).rings = s.rings := rfl
@[simp] theorem State.negOver_fsm : (s.negOver).fsm = s.fsm := rfl
@[simp] theorem State.negOver_neg : (s.negOver).neg = { s.neg with ents := [], timeoutEv := false } := rfl
@[simp] theorem State.negOver_xfer : (s.negOver).xfer = s.xfer := rfl
@[simp] theorem State.negOver_mem : (s.negOver).mem = s.mem := rfl
@[simp] theorem State.negOver_mbx : (s.negOver).mbx = s.mbx := rfl
@[simp] theorem State.negOver_env : (s.negOver).env = s.env := rfl
@[simp] theorem State.negOver_ghost : (s.negOver).ghost = s.ghost := rfl

/-! ### enterExec -/

@[simp] theorem State.enterExec_cfg (c : XferCmd) : (s.enterExec c).cfg = s.cfg := rfl
@[simp] theorem State.enterExec_status (c : XferCmd) : (s.enterExec c).status = s.status := rfl
@[simp] theorem State.enterExec_irq (c : XferCmd) : (s.enterExec c).irq = s.irq := rfl
@[simp] theorem State.enterExec_args (c : XferCmd) : (s.enterExec c).args = s.args := rfl
@[simp] theorem State.enterExec_results (c : XferCmd) : (s.enterExec c).results = s.results := rfl
@[simp] theorem State.enterExec_rings (c : XferCmd) : (s.enterExec c).rings = s.rings := rfl
@[simp] theorem State.enterExec_fsm (c : XferCmd) : (s.enterExec c).fsm = .exec := rfl
@[simp] theorem State.enterExec_neg (c : XferCmd) : (s.enterExec c).neg = s.neg := rfl
@[simp] theorem State.enterExec_xfer (c : XferCmd) :
    (s.enterExec c).xfer = { s.xfer with cmd := c, phase := .loadPeer, todo := [] } := rfl
@[simp] theorem State.enterExec_mem (c : XferCmd) : (s.enterExec c).mem = s.mem := rfl
@[simp] theorem State.enterExec_mbx (c : XferCmd) : (s.enterExec c).mbx = s.mbx := rfl
@[simp] theorem State.enterExec_env (c : XferCmd) : (s.enterExec c).env = s.env := rfl
@[simp] theorem State.enterExec_ghost (c : XferCmd) : (s.enterExec c).ghost = s.beginCmd.ghost := rfl

/-! ### setPhase -/

@[simp] theorem State.setPhase_cfg (p : Phase) : (s.setPhase p).cfg = s.cfg := rfl
@[simp] theorem State.setPhase_status (p : Phase) : (s.setPhase p).status = s.status := rfl
@[simp] theorem State.setPhase_irq (p : Phase) : (s.setPhase p).irq = s.irq := rfl
@[simp] theorem State.setPhase_args (p : Phase) : (s.setPhase p).args = s.args := rfl
@[simp] theorem State.setPhase_results (p : Phase) : (s.setPhase p).results = s.results := rfl
@[simp] theorem State.setPhase_rings (p : Phase) : (s.setPhase p).rings = s.rings := rfl
@[simp] theorem State.setPhase_fsm (p : Phase) : (s.setPhase p).fsm = s.fsm := rfl
@[simp] theorem State.setPhase_neg (p : Phase) : (s.setPhase p).neg = s.neg := rfl
@[simp] theorem State.setPhase_xfer (p : Phase) : (s.setPhase p).xfer = { s.xfer with phase := p } := rfl
@[simp] theorem State.setPhase_mem (p : Phase) : (s.setPhase p).mem = s.mem := rfl
@[simp] theorem State.setPhase_mbx (p : Phase) : (s.setPhase p).mbx = s.mbx := rfl
@[simp] theorem State.setPhase_env (p : Phase) : (s.setPhase p).env = s.env := rfl
@[simp] theorem State.setPhase_ghost (p : Phase) : (s.setPhase p).ghost = s.ghost := rfl

/-! ### loadWord -/

@[simp] theorem State.loadWord_cfg (k : EventKind) (g : RingView) (c : BitVec 4) (a : Word) (f : Word → Xfer → Xfer) :
    (s.loadWord k g c a f).cfg = s.cfg := rfl
@[simp] theorem State.loadWord_status (k : EventKind) (g : RingView) (c : BitVec 4) (a : Word) (f : Word → Xfer
    → Xfer) :
    (s.loadWord k g c a f).status = s.status := rfl
@[simp] theorem State.loadWord_irq (k : EventKind) (g : RingView) (c : BitVec 4) (a : Word) (f : Word → Xfer → Xfer) :
    (s.loadWord k g c a f).irq = s.irq := rfl
@[simp] theorem State.loadWord_args (k : EventKind) (g : RingView) (c : BitVec 4) (a : Word) (f : Word → Xfer →
    Xfer) :
    (s.loadWord k g c a f).args = s.args := rfl
@[simp] theorem State.loadWord_results (k : EventKind) (g : RingView) (c : BitVec 4) (a : Word) (f : Word → Xfer
    → Xfer) :
    (s.loadWord k g c a f).results = s.results := rfl
@[simp] theorem State.loadWord_rings (k : EventKind) (g : RingView) (c : BitVec 4) (a : Word) (f : Word → Xfer →
    Xfer) :
    (s.loadWord k g c a f).rings = s.rings := rfl
@[simp] theorem State.loadWord_fsm (k : EventKind) (g : RingView) (c : BitVec 4) (a : Word) (f : Word → Xfer → Xfer) :
    (s.loadWord k g c a f).fsm = s.fsm := rfl
@[simp] theorem State.loadWord_neg (k : EventKind) (g : RingView) (c : BitVec 4) (a : Word) (f : Word → Xfer → Xfer) :
    (s.loadWord k g c a f).neg = s.neg := rfl
@[simp] theorem State.loadWord_xfer (k : EventKind) (g : RingView) (c : BitVec 4) (a : Word) (f : Word → Xfer →
    Xfer) :
    (s.loadWord k g c a f).xfer = f (s.wordRead a (s.cmdMarks g c a)) s.xfer := rfl
@[simp] theorem State.loadWord_mem (k : EventKind) (g : RingView) (c : BitVec 4) (a : Word) (f : Word → Xfer → Xfer) :
    (s.loadWord k g c a f).mem = s.mem := rfl
@[simp] theorem State.loadWord_mbx (k : EventKind) (g : RingView) (c : BitVec 4) (a : Word) (f : Word → Xfer → Xfer) :
    (s.loadWord k g c a f).mbx = s.mbx := rfl
@[simp] theorem State.loadWord_env (k : EventKind) (g : RingView) (c : BitVec 4) (a : Word) (f : Word → Xfer → Xfer) :
    (s.loadWord k g c a f).env = s.env := rfl
@[simp] theorem State.loadWord_ghost (k : EventKind) (g : RingView) (c : BitVec 4) (a : Word) (f : Word → Xfer →
    Xfer) :
    (s.loadWord k g c a f).ghost = (s.loadBytes .controller k a (wordBytes (s.cmdMarks g c a) (s.wordRead a
        (s.cmdMarks g c a)))).ghost := rfl

/-! ### startData -/

@[simp] theorem State.startData_cfg (todo : List DataOp) (pos : Nat) : (s.startData todo pos).cfg = s.cfg := rfl
@[simp] theorem State.startData_status (todo : List DataOp) (pos : Nat) :
    (s.startData todo pos).status = s.status := rfl
@[simp] theorem State.startData_irq (todo : List DataOp) (pos : Nat) : (s.startData todo pos).irq = s.irq := rfl
@[simp] theorem State.startData_args (todo : List DataOp) (pos : Nat) : (s.startData todo pos).args = s.args := rfl
@[simp] theorem State.startData_results (todo : List DataOp) (pos : Nat) :
    (s.startData todo pos).results = s.results := rfl
@[simp] theorem State.startData_rings (todo : List DataOp) (pos : Nat) : (s.startData todo pos).rings = s.rings := rfl
@[simp] theorem State.startData_fsm (todo : List DataOp) (pos : Nat) : (s.startData todo pos).fsm = s.fsm := rfl
@[simp] theorem State.startData_neg (todo : List DataOp) (pos : Nat) : (s.startData todo pos).neg = s.neg := rfl
@[simp] theorem State.startData_xfer (todo : List DataOp) (pos : Nat) :
    (s.startData todo pos).xfer = { s.xfer with todo := todo, pos := pos, phase := .data } := rfl
@[simp] theorem State.startData_mem (todo : List DataOp) (pos : Nat) : (s.startData todo pos).mem = s.mem := rfl
@[simp] theorem State.startData_mbx (todo : List DataOp) (pos : Nat) : (s.startData todo pos).mbx = s.mbx := rfl
@[simp] theorem State.startData_env (todo : List DataOp) (pos : Nat) : (s.startData todo pos).env = s.env := rfl
@[simp] theorem State.startData_ghost (todo : List DataOp) (pos : Nat) : (s.startData todo pos).ghost = s.ghost := rfl

/-! ### leave -/

@[simp] theorem State.leave_cfg (todo : List DataOp) : (s.leave todo).cfg = s.cfg := rfl
@[simp] theorem State.leave_status (todo : List DataOp) : (s.leave todo).status = s.status := rfl
@[simp] theorem State.leave_irq (todo : List DataOp) : (s.leave todo).irq = s.irq := rfl
@[simp] theorem State.leave_args (todo : List DataOp) : (s.leave todo).args = s.args := rfl
@[simp] theorem State.leave_results (todo : List DataOp) : (s.leave todo).results = s.results := rfl
@[simp] theorem State.leave_rings (todo : List DataOp) : (s.leave todo).rings = s.rings := rfl
@[simp] theorem State.leave_fsm (todo : List DataOp) : (s.leave todo).fsm = s.fsm := rfl
@[simp] theorem State.leave_neg (todo : List DataOp) : (s.leave todo).neg = s.neg := rfl
@[simp] theorem State.leave_xfer (todo : List DataOp) :
    (s.leave todo).xfer = { s.xfer with todo := todo, phase := if todo.isEmpty then .publish else .data } := rfl
@[simp] theorem State.leave_mem (todo : List DataOp) : (s.leave todo).mem = s.mem := rfl
@[simp] theorem State.leave_mbx (todo : List DataOp) : (s.leave todo).mbx = s.mbx := rfl
@[simp] theorem State.leave_env (todo : List DataOp) : (s.leave todo).env = s.env := rfl
@[simp] theorem State.leave_ghost (todo : List DataOp) : (s.leave todo).ghost = s.ghost := rfl

/-! ### signalPartner -/

@[simp] theorem State.signalPartner_cfg : (s.signalPartner).cfg = s.cfg := rfl
@[simp] theorem State.signalPartner_status : (s.signalPartner).status = s.status := rfl
@[simp] theorem State.signalPartner_irq : (s.signalPartner).irq = s.irq := rfl
@[simp] theorem State.signalPartner_args : (s.signalPartner).args = s.args := rfl
@[simp] theorem State.signalPartner_results : (s.signalPartner).results = s.results := rfl
@[simp] theorem State.signalPartner_rings : (s.signalPartner).rings = s.rings := rfl
@[simp] theorem State.signalPartner_fsm : (s.signalPartner).fsm = s.fsm := rfl
@[simp] theorem State.signalPartner_neg : (s.signalPartner).neg = s.neg := rfl
@[simp] theorem State.signalPartner_xfer : (s.signalPartner).xfer = s.xfer := rfl
@[simp] theorem State.signalPartner_mem : (s.signalPartner).mem = s.mem := rfl
@[simp] theorem State.signalPartner_mbx :
    (s.signalPartner).mbx = { s.mbx with sigToPartner := s.mbx.sigToPartner + 1 } := rfl
@[simp] theorem State.signalPartner_env : (s.signalPartner).env = s.env := rfl
@[simp] theorem State.signalPartner_ghost : (s.signalPartner).ghost = (s.emit .controller .signal 0 []).ghost := rfl

/-! ### readResults -/

@[simp] theorem State.readResults_cfg : (s.readResults).cfg = s.cfg := rfl
@[simp] theorem State.readResults_status : (s.readResults).status = s.status := rfl
@[simp] theorem State.readResults_irq : (s.readResults).irq = s.irq := rfl
@[simp] theorem State.readResults_args : (s.readResults).args = s.args := rfl
@[simp] theorem State.readResults_results :
    (s.readResults).results = { rid := s.xfer.ident, rlen := BitVec.ofNat 32 s.readPayloadLen } := rfl
@[simp] theorem State.readResults_rings : (s.readResults).rings = s.rings := rfl
@[simp] theorem State.readResults_fsm : (s.readResults).fsm = s.fsm := rfl
@[simp] theorem State.readResults_neg : (s.readResults).neg = s.neg := rfl
@[simp] theorem State.readResults_xfer : (s.readResults).xfer = s.xfer := rfl
@[simp] theorem State.readResults_mem : (s.readResults).mem = s.mem := rfl
@[simp] theorem State.readResults_mbx : (s.readResults).mbx = s.mbx := rfl
@[simp] theorem State.readResults_env : (s.readResults).env = s.env := rfl
@[simp] theorem State.readResults_ghost : (s.readResults).ghost = s.ghost := rfl

/-! ### popped -/

@[simp] theorem State.popped_cfg (e : Entry) (es : List Entry) : (s.popped e es).cfg = s.cfg := rfl
@[simp] theorem State.popped_status (e : Entry) (es : List Entry) : (s.popped e es).status = s.status := rfl
@[simp] theorem State.popped_irq (e : Entry) (es : List Entry) : (s.popped e es).irq = s.irq := rfl
@[simp] theorem State.popped_args (e : Entry) (es : List Entry) : (s.popped e es).args = s.args := rfl
@[simp] theorem State.popped_results (e : Entry) (es : List Entry) : (s.popped e es).results = s.results := rfl
@[simp] theorem State.popped_rings (e : Entry) (es : List Entry) : (s.popped e es).rings = s.rings := rfl
@[simp] theorem State.popped_fsm (e : Entry) (es : List Entry) : (s.popped e es).fsm = s.fsm := rfl
@[simp] theorem State.popped_neg (e : Entry) (es : List Entry) : (s.popped e es).neg = s.neg := rfl
@[simp] theorem State.popped_xfer (e : Entry) (es : List Entry) : (s.popped e es).xfer = s.xfer := rfl
@[simp] theorem State.popped_mem (e : Entry) (es : List Entry) : (s.popped e es).mem = s.mem := rfl
@[simp] theorem State.popped_mbx (e : Entry) (es : List Entry) :
    (s.popped e es).mbx = { s.mbx with inbound := es } := rfl
@[simp] theorem State.popped_env (e : Entry) (es : List Entry) : (s.popped e es).env = s.env := rfl
@[simp] theorem State.popped_ghost (e : Entry) (es : List Entry) :
    (s.popped e es).ghost = (s.emit .controller (.pop s.headNo) 0 (entryBytes e)).ghost := rfl

/-! ### respond -/

@[simp] theorem State.respond_cfg (r : HostResp) : (s.respond r).cfg = s.cfg := rfl
@[simp] theorem State.respond_status (r : HostResp) : (s.respond r).status = s.status := rfl
@[simp] theorem State.respond_irq (r : HostResp) : (s.respond r).irq = s.irq := rfl
@[simp] theorem State.respond_args (r : HostResp) : (s.respond r).args = s.args := rfl
@[simp] theorem State.respond_results (r : HostResp) : (s.respond r).results = s.results := rfl
@[simp] theorem State.respond_rings (r : HostResp) : (s.respond r).rings = s.rings := rfl
@[simp] theorem State.respond_fsm (r : HostResp) : (s.respond r).fsm = s.fsm := rfl
@[simp] theorem State.respond_neg (r : HostResp) : (s.respond r).neg = s.neg := rfl
@[simp] theorem State.respond_xfer (r : HostResp) : (s.respond r).xfer = s.xfer := rfl
@[simp] theorem State.respond_mem (r : HostResp) : (s.respond r).mem = s.mem := rfl
@[simp] theorem State.respond_mbx (r : HostResp) : (s.respond r).mbx = s.mbx := rfl
@[simp] theorem State.respond_env (r : HostResp) : (s.respond r).env = { s.env with hostResp := r } := rfl
@[simp] theorem State.respond_ghost (r : HostResp) : (s.respond r).ghost = s.ghost := rfl

/-! ### agentLoad32 -/

@[simp] theorem State.agentLoad32_cfg (ag : Agent) (k : EventKind) (a : Word) (c : BitVec 4) :
    (s.agentLoad32 ag k a c).cfg = s.cfg := rfl
@[simp] theorem State.agentLoad32_status (ag : Agent) (k : EventKind) (a : Word) (c : BitVec 4) :
    (s.agentLoad32 ag k a c).status = s.status := rfl
@[simp] theorem State.agentLoad32_irq (ag : Agent) (k : EventKind) (a : Word) (c : BitVec 4) :
    (s.agentLoad32 ag k a c).irq = s.irq := rfl
@[simp] theorem State.agentLoad32_args (ag : Agent) (k : EventKind) (a : Word) (c : BitVec 4) :
    (s.agentLoad32 ag k a c).args = s.args := rfl
@[simp] theorem State.agentLoad32_results (ag : Agent) (k : EventKind) (a : Word) (c : BitVec 4) :
    (s.agentLoad32 ag k a c).results = s.results := rfl
@[simp] theorem State.agentLoad32_rings (ag : Agent) (k : EventKind) (a : Word) (c : BitVec 4) :
    (s.agentLoad32 ag k a c).rings = s.rings := rfl
@[simp] theorem State.agentLoad32_fsm (ag : Agent) (k : EventKind) (a : Word) (c : BitVec 4) :
    (s.agentLoad32 ag k a c).fsm = s.fsm := rfl
@[simp] theorem State.agentLoad32_neg (ag : Agent) (k : EventKind) (a : Word) (c : BitVec 4) :
    (s.agentLoad32 ag k a c).neg = s.neg := rfl
@[simp] theorem State.agentLoad32_xfer (ag : Agent) (k : EventKind) (a : Word) (c : BitVec 4) :
    (s.agentLoad32 ag k a c).xfer = s.xfer := rfl
@[simp] theorem State.agentLoad32_mem (ag : Agent) (k : EventKind) (a : Word) (c : BitVec 4) :
    (s.agentLoad32 ag k a c).mem = s.mem := rfl
@[simp] theorem State.agentLoad32_mbx (ag : Agent) (k : EventKind) (a : Word) (c : BitVec 4) :
    (s.agentLoad32 ag k a c).mbx = s.mbx := rfl
@[simp] theorem State.agentLoad32_env (ag : Agent) (k : EventKind) (a : Word) (c : BitVec 4) :
    (s.agentLoad32 ag k a c).env = s.env := rfl
@[simp] theorem State.agentLoad32_ghost (ag : Agent) (k : EventKind) (a : Word) (c : BitVec 4) :
    (s.agentLoad32 ag k a c).ghost =
      (s.loadBytes ag (s.cursorKind k .plainRead a) a (wordBytes (raceMarks c) (s.agentRead32 a c))).ghost := rfl

/-! ### agentStore32 -/

@[simp] theorem State.agentStore32_cfg (ag : Agent) (k : EventKind) (a v : Word) (c : BitVec 4) :
    (s.agentStore32 ag k a v c).cfg = s.cfg := rfl
@[simp] theorem State.agentStore32_status (ag : Agent) (k : EventKind) (a v : Word) (c : BitVec 4) :
    (s.agentStore32 ag k a v c).status = s.status := rfl
@[simp] theorem State.agentStore32_irq (ag : Agent) (k : EventKind) (a v : Word) (c : BitVec 4) :
    (s.agentStore32 ag k a v c).irq = s.irq := rfl
@[simp] theorem State.agentStore32_args (ag : Agent) (k : EventKind) (a v : Word) (c : BitVec 4) :
    (s.agentStore32 ag k a v c).args = s.args := rfl
@[simp] theorem State.agentStore32_results (ag : Agent) (k : EventKind) (a v : Word) (c : BitVec 4) :
    (s.agentStore32 ag k a v c).results = s.results := rfl
@[simp] theorem State.agentStore32_rings (ag : Agent) (k : EventKind) (a v : Word) (c : BitVec 4) :
    (s.agentStore32 ag k a v c).rings = s.rings := rfl
@[simp] theorem State.agentStore32_fsm (ag : Agent) (k : EventKind) (a v : Word) (c : BitVec 4) :
    (s.agentStore32 ag k a v c).fsm = s.fsm := rfl
@[simp] theorem State.agentStore32_neg (ag : Agent) (k : EventKind) (a v : Word) (c : BitVec 4) :
    (s.agentStore32 ag k a v c).neg = s.neg := rfl
@[simp] theorem State.agentStore32_xfer (ag : Agent) (k : EventKind) (a v : Word) (c : BitVec 4) :
    (s.agentStore32 ag k a v c).xfer = s.xfer := rfl
@[simp] theorem State.agentStore32_mem (ag : Agent) (k : EventKind) (a v : Word) (c : BitVec 4) :
    (s.agentStore32 ag k a v c).mem =
      s.mem.writeBytes a ((wordBytes (raceMarks c) (s.wordWritten v (raceMarks c))).map EventByte.val) := rfl
@[simp] theorem State.agentStore32_mbx (ag : Agent) (k : EventKind) (a v : Word) (c : BitVec 4) :
    (s.agentStore32 ag k a v c).mbx = s.mbx := rfl
@[simp] theorem State.agentStore32_env (ag : Agent) (k : EventKind) (a v : Word) (c : BitVec 4) :
    (s.agentStore32 ag k a v c).env = s.env := rfl
@[simp] theorem State.agentStore32_ghost (ag : Agent) (k : EventKind) (a v : Word) (c : BitVec 4) :
    (s.agentStore32 ag k a v c).ghost =
      (s.storeBytes ag (s.cursorKind k .plainWrite a) a (wordBytes (raceMarks c) (s.wordWritten v (raceMarks
          c)))).ghost := rfl

/-! ### hostLoad32 -/

@[simp] theorem State.hostLoad32_cfg (k : EventKind) (a : Word) (c : BitVec 4) :
    (s.hostLoad32 k a c).cfg = s.cfg := rfl
@[simp] theorem State.hostLoad32_status (k : EventKind) (a : Word) (c : BitVec 4) :
    (s.hostLoad32 k a c).status = s.status := rfl
@[simp] theorem State.hostLoad32_irq (k : EventKind) (a : Word) (c : BitVec 4) :
    (s.hostLoad32 k a c).irq = s.irq := rfl
@[simp] theorem State.hostLoad32_args (k : EventKind) (a : Word) (c : BitVec 4) :
    (s.hostLoad32 k a c).args = s.args := rfl
@[simp] theorem State.hostLoad32_results (k : EventKind) (a : Word) (c : BitVec 4) :
    (s.hostLoad32 k a c).results = s.results := rfl
@[simp] theorem State.hostLoad32_rings (k : EventKind) (a : Word) (c : BitVec 4) :
    (s.hostLoad32 k a c).rings = s.rings := rfl
@[simp] theorem State.hostLoad32_fsm (k : EventKind) (a : Word) (c : BitVec 4) :
    (s.hostLoad32 k a c).fsm = s.fsm := rfl
@[simp] theorem State.hostLoad32_neg (k : EventKind) (a : Word) (c : BitVec 4) :
    (s.hostLoad32 k a c).neg = s.neg := rfl
@[simp] theorem State.hostLoad32_xfer (k : EventKind) (a : Word) (c : BitVec 4) :
    (s.hostLoad32 k a c).xfer = s.xfer := rfl
@[simp] theorem State.hostLoad32_mem (k : EventKind) (a : Word) (c : BitVec 4) :
    (s.hostLoad32 k a c).mem = s.mem := rfl
@[simp] theorem State.hostLoad32_mbx (k : EventKind) (a : Word) (c : BitVec 4) :
    (s.hostLoad32 k a c).mbx = s.mbx := rfl
@[simp] theorem State.hostLoad32_env (k : EventKind) (a : Word) (c : BitVec 4) :
    (s.hostLoad32 k a c).env = { s.env with hostResp := .data (s.agentRead32 a c) } := rfl
@[simp] theorem State.hostLoad32_ghost (k : EventKind) (a : Word) (c : BitVec 4) :
    (s.hostLoad32 k a c).ghost =
      ((s.respond (.data (s.agentRead32 a c))).agentLoad32 .host k a c).ghost := rfl

/-! ### setHostProg -/

@[simp] theorem State.setHostProg_cfg (p : List HostAct) : (s.setHostProg p).cfg = s.cfg := rfl
@[simp] theorem State.setHostProg_status (p : List HostAct) : (s.setHostProg p).status = s.status := rfl
@[simp] theorem State.setHostProg_irq (p : List HostAct) : (s.setHostProg p).irq = s.irq := rfl
@[simp] theorem State.setHostProg_args (p : List HostAct) : (s.setHostProg p).args = s.args := rfl
@[simp] theorem State.setHostProg_results (p : List HostAct) : (s.setHostProg p).results = s.results := rfl
@[simp] theorem State.setHostProg_rings (p : List HostAct) : (s.setHostProg p).rings = s.rings := rfl
@[simp] theorem State.setHostProg_fsm (p : List HostAct) : (s.setHostProg p).fsm = s.fsm := rfl
@[simp] theorem State.setHostProg_neg (p : List HostAct) : (s.setHostProg p).neg = s.neg := rfl
@[simp] theorem State.setHostProg_xfer (p : List HostAct) : (s.setHostProg p).xfer = s.xfer := rfl
@[simp] theorem State.setHostProg_mem (p : List HostAct) : (s.setHostProg p).mem = s.mem := rfl
@[simp] theorem State.setHostProg_mbx (p : List HostAct) : (s.setHostProg p).mbx = s.mbx := rfl
@[simp] theorem State.setHostProg_env (p : List HostAct) : (s.setHostProg p).env = { s.env with hostProg := p } := rfl
@[simp] theorem State.setHostProg_ghost (p : List HostAct) : (s.setHostProg p).ghost = s.ghost := rfl

/-! ### hostWrote -/

@[simp] theorem State.hostWrote_cfg (p : List HostAct) : (s.hostWrote p).cfg = s.cfg := rfl
@[simp] theorem State.hostWrote_status (p : List HostAct) : (s.hostWrote p).status = s.status := rfl
@[simp] theorem State.hostWrote_irq (p : List HostAct) : (s.hostWrote p).irq = s.irq := rfl
@[simp] theorem State.hostWrote_args (p : List HostAct) : (s.hostWrote p).args = s.args := rfl
@[simp] theorem State.hostWrote_results (p : List HostAct) : (s.hostWrote p).results = s.results := rfl
@[simp] theorem State.hostWrote_rings (p : List HostAct) : (s.hostWrote p).rings = s.rings := rfl
@[simp] theorem State.hostWrote_fsm (p : List HostAct) : (s.hostWrote p).fsm = s.fsm := rfl
@[simp] theorem State.hostWrote_neg (p : List HostAct) : (s.hostWrote p).neg = s.neg := rfl
@[simp] theorem State.hostWrote_xfer (p : List HostAct) : (s.hostWrote p).xfer = s.xfer := rfl
@[simp] theorem State.hostWrote_mem (p : List HostAct) : (s.hostWrote p).mem = s.mem := rfl
@[simp] theorem State.hostWrote_mbx (p : List HostAct) : (s.hostWrote p).mbx = s.mbx := rfl
@[simp] theorem State.hostWrote_env (p : List HostAct) :
    (s.hostWrote p).env = { s.env with hostProg := p, hostResp := .done } := rfl
@[simp] theorem State.hostWrote_ghost (p : List HostAct) : (s.hostWrote p).ghost = s.ghost := rfl

/-! ### setPartnerProg -/

@[simp] theorem State.setPartnerProg_cfg (p : List PartnerAct) : (s.setPartnerProg p).cfg = s.cfg := rfl
@[simp] theorem State.setPartnerProg_status (p : List PartnerAct) : (s.setPartnerProg p).status = s.status := rfl
@[simp] theorem State.setPartnerProg_irq (p : List PartnerAct) : (s.setPartnerProg p).irq = s.irq := rfl
@[simp] theorem State.setPartnerProg_args (p : List PartnerAct) : (s.setPartnerProg p).args = s.args := rfl
@[simp] theorem State.setPartnerProg_results (p : List PartnerAct) : (s.setPartnerProg p).results = s.results := rfl
@[simp] theorem State.setPartnerProg_rings (p : List PartnerAct) : (s.setPartnerProg p).rings = s.rings := rfl
@[simp] theorem State.setPartnerProg_fsm (p : List PartnerAct) : (s.setPartnerProg p).fsm = s.fsm := rfl
@[simp] theorem State.setPartnerProg_neg (p : List PartnerAct) : (s.setPartnerProg p).neg = s.neg := rfl
@[simp] theorem State.setPartnerProg_xfer (p : List PartnerAct) : (s.setPartnerProg p).xfer = s.xfer := rfl
@[simp] theorem State.setPartnerProg_mem (p : List PartnerAct) : (s.setPartnerProg p).mem = s.mem := rfl
@[simp] theorem State.setPartnerProg_mbx (p : List PartnerAct) : (s.setPartnerProg p).mbx = s.mbx := rfl
@[simp] theorem State.setPartnerProg_env (p : List PartnerAct) :
    (s.setPartnerProg p).env = { s.env with partnerProg := p } := rfl
@[simp] theorem State.setPartnerProg_ghost (p : List PartnerAct) : (s.setPartnerProg p).ghost = s.ghost := rfl

/-! ### pushed -/

@[simp] theorem State.pushed_cfg (e : Entry) : (s.pushed e).cfg = s.cfg := rfl
@[simp] theorem State.pushed_status (e : Entry) : (s.pushed e).status = s.status := rfl
@[simp] theorem State.pushed_irq (e : Entry) : (s.pushed e).irq = s.irq := rfl
@[simp] theorem State.pushed_args (e : Entry) : (s.pushed e).args = s.args := rfl
@[simp] theorem State.pushed_results (e : Entry) : (s.pushed e).results = s.results := rfl
@[simp] theorem State.pushed_rings (e : Entry) : (s.pushed e).rings = s.rings := rfl
@[simp] theorem State.pushed_fsm (e : Entry) : (s.pushed e).fsm = s.fsm := rfl
@[simp] theorem State.pushed_neg (e : Entry) : (s.pushed e).neg = s.neg := rfl
@[simp] theorem State.pushed_xfer (e : Entry) : (s.pushed e).xfer = s.xfer := rfl
@[simp] theorem State.pushed_mem (e : Entry) : (s.pushed e).mem = s.mem := rfl
@[simp] theorem State.pushed_mbx (e : Entry) :
    (s.pushed e).mbx = { s.mbx with inbound := s.mbx.inbound ++ [e] } := rfl
@[simp] theorem State.pushed_env (e : Entry) : (s.pushed e).env = s.env := rfl
@[simp] theorem State.pushed_ghost (e : Entry) :
    (s.pushed e).ghost =
      { s.ghost with
        entered := s.ghost.entered ++ [e]
        trace :=
          { agent := .partner, cmdNo := s.ghost.cmdNo, kind := (.push s.ghost.entered.length), addr := 0, bytes
              := (entryBytes e)
            cursor := false } :: s.ghost.trace } := rfl

/-! ### setSched -/

@[simp] theorem State.setSched_cfg (ts : List Turn) : (s.setSched ts).cfg = s.cfg := rfl
@[simp] theorem State.setSched_status (ts : List Turn) : (s.setSched ts).status = s.status := rfl
@[simp] theorem State.setSched_irq (ts : List Turn) : (s.setSched ts).irq = s.irq := rfl
@[simp] theorem State.setSched_args (ts : List Turn) : (s.setSched ts).args = s.args := rfl
@[simp] theorem State.setSched_results (ts : List Turn) : (s.setSched ts).results = s.results := rfl
@[simp] theorem State.setSched_rings (ts : List Turn) : (s.setSched ts).rings = s.rings := rfl
@[simp] theorem State.setSched_fsm (ts : List Turn) : (s.setSched ts).fsm = s.fsm := rfl
@[simp] theorem State.setSched_neg (ts : List Turn) : (s.setSched ts).neg = s.neg := rfl
@[simp] theorem State.setSched_xfer (ts : List Turn) : (s.setSched ts).xfer = s.xfer := rfl
@[simp] theorem State.setSched_mem (ts : List Turn) : (s.setSched ts).mem = s.mem := rfl
@[simp] theorem State.setSched_mbx (ts : List Turn) : (s.setSched ts).mbx = s.mbx := rfl
@[simp] theorem State.setSched_env (ts : List Turn) : (s.setSched ts).env = { s.env with sched := ts } := rfl
@[simp] theorem State.setSched_ghost (ts : List Turn) : (s.setSched ts).ghost = s.ghost := rfl

/-! ### resetRegisters -/

@[simp] theorem State.resetRegisters_cfg : (s.resetRegisters).cfg = s.cfg := rfl
@[simp] theorem State.resetRegisters_status : (s.resetRegisters).status = Status.atReset := rfl
@[simp] theorem State.resetRegisters_irq : (s.resetRegisters).irq = Irq.atReset := rfl
@[simp] theorem State.resetRegisters_args : (s.resetRegisters).args = Args.atReset := rfl
@[simp] theorem State.resetRegisters_results : (s.resetRegisters).results = Results.atReset := rfl
@[simp] theorem State.resetRegisters_rings : (s.resetRegisters).rings = Rings.unset := rfl
@[simp] theorem State.resetRegisters_fsm : (s.resetRegisters).fsm = .idle := rfl
@[simp] theorem State.resetRegisters_neg : (s.resetRegisters).neg = Neg.atReset := rfl
@[simp] theorem State.resetRegisters_xfer : (s.resetRegisters).xfer = Xfer.atReset := rfl
@[simp] theorem State.resetRegisters_mem : (s.resetRegisters).mem = s.mem := rfl
@[simp] theorem State.resetRegisters_mbx : (s.resetRegisters).mbx = s.mbx := rfl
@[simp] theorem State.resetRegisters_env : (s.resetRegisters).env = s.env := rfl
@[simp] theorem State.resetRegisters_ghost : (s.resetRegisters).ghost = s.ghost := rfl

end Sys2Proof.Machine
end

