-- ==== Sys2Proof/Laws/Frame.lean ====
section
/-! SUPPORT. What the parts of the machine's invariant do not depend on. -/

namespace Sys2Proof.Machine

variable {s : State}

/-- The socket's invariant does not depend on the environment, the record, the results, the arguments, the transfer,
the mailbox, memory or OVR. -/
theorem SocketInv.frame (h : SocketInv s) (e : Env) (g : Ghost) (r : Results) (m : Mailbox) (mm : Mem) (a : Args)
    (x : Xfer) (o : Bool) :
    SocketInv { s with
      env := e, ghost := g, results := r, mbx := m, mem := mm, args := a, xfer := x
      status := { s.status with ovr := o } } :=
  ⟨h.openOfRv, h.openOfHwf, h.openOfRxp, h.ringsUnset, h.localOk, h.remoteOk, h.errOfDetail, h.waitRv, h.waitKind,
    h.waitFew, h.idleEnts, h.idleAbort, h.idleTimeout, h.timeoutEnabled, h.abortLegal, h.execReady⟩

/-- A running WRITE's invariant depends on the parameters, the arguments, the rings and the transfer alone. -/
theorem WriteRunning.frame (h : WriteRunning s) (e : Env) (g : Ghost) (r : Results) (m : Mailbox) (mm : Mem)
    (st : Status) (i : Irq) (n : Neg) :
    WriteRunning { s with
      env := e, ghost := g, results := r, mbx := m, mem := mm, status := st, irq := i, neg := n } :=
  ⟨h.lenPos, h.lenMax, h.rOk, h.wOk, h.room, h.posIs, h.targets, h.work⟩

/-- The same for a READ whose cursors are checked. -/
theorem ReadChecked.frame (h : ReadChecked s) (e : Env) (g : Ghost) (r : Results) (m : Mailbox) (mm : Mem)
    (st : Status) (i : Irq) (n : Neg) :
    ReadChecked { s with
      env := e, ghost := g, results := r, mbx := m, mem := mm, status := st, irq := i, neg := n } :=
  ⟨h.rOk, h.wOk, h.avail⟩

/-- The same for a READ whose checks have all passed. -/
theorem ReadRunning.frame (h : ReadRunning s) (e : Env) (g : Ghost) (r : Results) (m : Mailbox) (mm : Mem)
    (st : Status) (i : Irq) (n : Neg) :
    ReadRunning { s with
      env := e, ghost := g, results := r, mbx := m, mem := mm, status := st, irq := i, neg := n } :=
  ⟨h.checked.frame e g r m mm st i n, h.lenFits, h.lenLeast, h.dstFits, h.posIs, h.targets, h.work⟩

/-- The transfer's invariant depends on the parameters, the arguments, the rings, the FSM and the transfer alone. -/
theorem XferInv.frame (h : XferInv s) (e : Env) (g : Ghost) (r : Results) (m : Mailbox) (mm : Mem) (st : Status)
    (i : Irq) (n : Neg) :
    XferInv { s with
      env := e, ghost := g, results := r, mbx := m, mem := mm, status := st, irq := i, neg := n } := by
  intro hf
  obtain ⟨h1, h2, h3⟩ := h hf
  refine ⟨h1, ?_, h3⟩
  revert h2
  show (match s.xfer.cmd with | .write => _ | .read => _) → (match s.xfer.cmd with | .write => _ | .read => _)
  cases s.xfer.cmd
  · rintro ⟨a, b, c, d⟩
    exact ⟨a, b, c, fun p => (d p).frame ..⟩
  · rintro ⟨a, b⟩
    exact ⟨fun p => (a p).frame .., fun p => (b p).frame ..⟩

/-- Outside EXEC the transfer's invariant says nothing. -/
theorem XferInv.of_not_exec (h : s.fsm ≠ .exec) : XferInv s := fun hf => absurd hf h

/-- What a running WRITE's invariant says. -/
theorem XferInv.write (h : XferInv s) (hf : s.fsm = .exec) (hc : s.xfer.cmd = .write) :
    s.xfer.phase ≠ .loadLen ∧ 0 < s.args.len.toNat ∧ s.args.len.toNat ≤ Config.rbMaxPayloadLen ∧
      (s.xfer.phase = .data ∨ s.xfer.phase = .publish ∨ s.xfer.phase = .signal → WriteRunning s) := by
  have := (h hf).2.1
  rwa [hc] at this

/-- What a running READ's invariant says. -/
theorem XferInv.read (h : XferInv s) (hf : s.fsm = .exec) (hc : s.xfer.cmd = .read) :
    (s.xfer.phase = .loadLen → ReadChecked s) ∧
      (s.xfer.phase = .data ∨ s.xfer.phase = .publish ∨ s.xfer.phase = .signal → ReadRunning s) := by
  have := (h hf).2.1
  rwa [hc] at this

/-- The machine's invariant asks of the mailbox only the FIFO's bound and of memory only its canonical form. -/
theorem MachineInv.frame (h : MachineInv s) (e : Env) (g : Ghost) (r : Results) (m : Mailbox) (mm : Mem) (o : Bool)
    (hm : m.inbound.length ≤ s.cfg.mboxFifoDepth) (hw : Mem.wf mm = true) :
    MachineInv { s with
      env := e, ghost := g, results := r, mbx := m, mem := mm, status := { s.status with ovr := o } } :=
  ⟨h.cfg, h.socket.frame e g r m mm s.args s.xfer o, ⟨h.lopc.waiting, h.lopc.running⟩,
    h.xfer.frame e g r m mm _ s.irq s.neg, hm, hw⟩

end Sys2Proof.Machine
end

