-- ==== Sys2Proof/Laws/Memory.lean ====
section
/-! SUPPORT. Memory: reading after writing, and the canonical form kept by every memory operation. -/

namespace Sys2Proof.Machine

theorem Mem.above_iff (lo : Nat) (m : Mem) : Mem.above lo m = true ↔ ∀ c ∈ m, lo < c.1 := by
  simp [Mem.above]

theorem Mem.wf_cons (c : Host.Cell) (m : Mem) :
    Mem.wf (c :: m) = true ↔
      c.1 < 2 ^ 32 ∧ c.2 ≠ Mem.unlisted ∧ (∀ d ∈ m, c.1 < d.1) ∧ Mem.wf m = true := by
  simp [Mem.wf, Mem.above_iff, and_assoc]

/-- An address below every listed one reads as unlisted. -/
theorem Mem.read_of_below {m : Mem} {a : Nat} (h : ∀ c ∈ m, a < c.1) : Mem.read m a = Mem.unlisted := by
  induction m with
  | nil => rfl
  | cons c m ih =>
    have hc : c.1 ≠ a := by have := h c (by simp); omega
    simp only [Mem.read, hc, if_false]
    exact ih fun d hd => h d (by simp [hd])

/-- A write leaves every listed address above any bound it was above. -/
theorem Mem.write_above {m : Mem} {lo a : Nat} {b : Byte} (ha : lo < a) (h : ∀ c ∈ m, lo < c.1) :
    ∀ c ∈ Mem.write m a b, lo < c.1 := by
  induction m with
  | nil => intro c hc; simp only [Mem.write] at hc; split at hc <;> simp_all
  | cons d m ih =>
    have ih' := ih fun c hc => h c (by simp [hc])
    intro c hc
    simp only [Mem.write] at hc
    split at hc
    · split at hc
      · exact h c (by simp [hc])
      · rcases List.mem_cons.1 hc with rfl | hc
        · exact ha
        · exact h c (by simp [hc])
    · split at hc
      · split at hc
        · exact h c hc
        · rcases List.mem_cons.1 hc with rfl | hc
          · exact ha
          · exact h c hc
      · rcases List.mem_cons.1 hc with rfl | hc
        · exact h c (by simp)
        · exact ih' c hc

/-- A write keeps the canonical form. -/
theorem Mem.wf_write {m : Mem} {a : Nat} {b : Byte} (ha : a < 2 ^ 32) (h : Mem.wf m = true) :
    Mem.wf (Mem.write m a b) = true := by
  induction m with
  | nil =>
    simp only [Mem.write]
    split
    · rfl
    · rw [Mem.wf_cons]; simp_all [Mem.wf]
  | cons d m ih =>
    obtain ⟨h1, h2, h3, h4⟩ := (Mem.wf_cons d m).1 h
    simp only [Mem.write]
    split
    · rename_i hd
      split
      · exact h4
      · rw [Mem.wf_cons]; exact ⟨ha, by assumption, fun c hc => hd ▸ h3 c hc, h4⟩
    · rename_i hd
      split
      · rename_i hlt
        split
        · exact h
        · rw [Mem.wf_cons]
          refine ⟨ha, by assumption, fun c hc => ?_, h⟩
          rcases List.mem_cons.1 hc with rfl | hc
          · exact hlt
          · exact lt_trans hlt (h3 c hc)
      · rename_i hge
        rw [Mem.wf_cons]
        exact ⟨h1, h2, Mem.write_above (by omega) h3, ih h4⟩

/-- What a canonical memory reads after a write. -/
theorem Mem.read_write {m : Mem} {a : Nat} {b : Byte} (h : Mem.wf m = true) (x : Nat) :
    Mem.read (Mem.write m a b) x = if x = a then b else Mem.read m x := by
  induction m with
  | nil =>
    simp only [Mem.write]
    split
    · simp_all [Mem.read]
    · simp only [Mem.read, eq_comm]
  | cons d m ih =>
    obtain ⟨-, -, h3, h4⟩ := (Mem.wf_cons d m).1 h
    simp only [Mem.write]
    split
    · rename_i hd
      split
      · rename_i hb
        by_cases hx : x = a
        · subst hx; rw [if_pos rfl, hb]
          exact Mem.read_of_below fun c hc => hd ▸ h3 c hc
        · have : d.1 ≠ x := by omega
          simp [Mem.read, hx, this]
      · by_cases hx : x = a
        · simp [Mem.read, hx]
        · have h1 : d.1 ≠ x := by omega
          have h2 : a ≠ x := fun h => hx h.symm
          simp [Mem.read, hx, h1, h2]
    · rename_i hd
      split
      · rename_i hlt
        split
        · rename_i hb
          by_cases hx : x = a
          · subst hx; rw [if_pos rfl, hb]
            refine Mem.read_of_below fun c hc => ?_
            rcases List.mem_cons.1 hc with rfl | hc
            · exact hlt
            · exact lt_trans hlt (h3 c hc)
          · rw [if_neg hx]
        · by_cases hx : x = a
          · simp [Mem.read, hx]
          · have h2 : a ≠ x := fun h => hx h.symm
            simp [Mem.read, hx, h2]
      · rename_i hge
        simp only [Mem.read]
        by_cases hx : d.1 = x
        · have : x ≠ a := by omega
          simp [hx, this]
        · simp only [hx, if_false]; exact ih h4

theorem Mem.wf_write8 {m : Mem} (h : Mem.wf m = true) (a : Word) (b : Byte) : Mem.wf (m.write8 a b) = true :=
  Mem.wf_write a.isLt h

/-- What a canonical memory reads after a one-byte write at a 32-bit address. -/
theorem Mem.read8_write8 {m : Mem} (h : Mem.wf m = true) (a : Word) (b : Byte) (x : Word) :
    (m.write8 a b).read8 x = if x = a then b else m.read8 x := by
  simp only [Mem.read8, Mem.write8, Mem.read_write h, BitVec.toNat_inj]

theorem Mem.wf_writeBytes {m : Mem} (h : Mem.wf m = true) (a : Word) (bs : List Byte) :
    Mem.wf (m.writeBytes a bs) = true := by
  induction bs generalizing m a with
  | nil => exact h
  | cons b bs ih => exact ih (Mem.wf_write8 h a b) (a + 1)

/-- A byte string's write leaves every byte outside its run alone. -/
theorem Mem.read8_writeBytes_of_not_inRun {m : Mem} (h : Mem.wf m = true) (a : Word) (bs : List Byte) (x : Word)
    (hx : ∀ k < bs.length, x ≠ a + BitVec.ofNat 32 k) : (m.writeBytes a bs).read8 x = m.read8 x := by
  induction bs generalizing m a with
  | nil => rfl
  | cons b bs ih =>
    have h0 : x ≠ a := by simpa using hx 0 (by simp)
    rw [Mem.writeBytes, ih (Mem.wf_write8 h a b), Mem.read8_write8 h, if_neg h0]
    intro k hk
    have := hx (k + 1) (by simpa using hk)
    rwa [BitVec.ofNat_add, BitVec.add_comm (BitVec.ofNat 32 k), ← BitVec.add_assoc] at this

@[simp] theorem Mem.writeBytes_nil (m : Mem) (a : Word) : m.writeBytes a [] = m := rfl

@[simp] theorem Mem.writeBytes_singleton (m : Mem) (a : Word) (b : Byte) : m.writeBytes a [b] = m.write8 a b := rfl

/-- Memory right after reset has the canonical form. -/
theorem Mem.wf_reset : Mem.wf State.reset.mem = true := rfl

end Sys2Proof.Machine
end

