-- ==== Sys2Proof/Laws/Ops.lean ====
section
/-! SUPPORT. For each shared operation, what it does said once: an equation where it always does one thing, a list of
cases where it chooses. Proofs cite these instead of unfolding the operation. -/

namespace Sys2Proof.Machine

variable {s t : State}

/-! ### Accepting a command -/

theorem State.atIdle_idle (f : State → State) (h : s.fsm = .idle) : s.atIdle f = f s := by
  simp [State.atIdle, h]

theorem State.atIdle_busy (f : State → State) (h : s.fsm ≠ .idle) : s.atIdle f = s.overrun := by
  cases hf : s.fsm <;> simp_all [State.atIdle]

theorem State.atIdleOrAbort_idle (i : Instr) (f : State → State) (h : s.fsm = .idle) : s.atIdleOrAbort i f = f s := by
  simp [State.atIdleOrAbort, h]

theorem State.atIdleOrAbort_negWait (i : Instr) (f : State → State) (h : s.fsm = .negWait) :
    s.atIdleOrAbort i f = s.requestAbort i := by
  simp [State.atIdleOrAbort, h]

theorem State.atIdleOrAbort_exec (i : Instr) (f : State → State) (h : s.fsm = .exec) :
    s.atIdleOrAbort i f = s.overrun := by
  simp [State.atIdleOrAbort, h]

theorem State.withOpen_open (o : BitVec 4) (f : State → State) (h : s.status.isOpen = true) :
    s.withOpen o f = f (s.setLopc o) := by
  simp [State.withOpen, h]

theorem State.withOpen_closed (o : BitVec 4) (f : State → State) (h : s.status.isOpen = false) :
    s.withOpen o f = (s.setLopc o).raise .notOpen := by
  simp [State.withOpen, h]

/-- A command that fails in the step of its CMD write, at BUSY = 0, leaves only LOPC, ERR and DETAIL. -/
theorem State.raise_setLopc (o : BitVec 4) (d : Detail) (h : s.fsm = .idle) :
    (s.setLopc o).raise d = s.rejected o d := by
  obtain ⟨⟩ := s
  cases h
  rfl

/-- A state is BUSY iff its FSM is not IDLE. -/
theorem State.busy_iff : s.busy = true ↔ s.fsm ≠ .idle := by
  simp [State.busy]

/-! ### Cursor words -/

/-- The cursor words are the first two words of each ring's header. -/
theorem State.mem_cursorAddrs {a : Word} : a ∈ s.cursorAddrs ↔ ∃ b ∈ s.ringBases, a = b ∨ a = b + 4 := by
  simp [State.cursorAddrs, List.mem_flatMap]

/-- The run's rings are those of its entries, where the registers' rings are among them. -/
theorem State.mem_ringBases (h : EntryInv s) {b : Word} :
    b ∈ s.ringBases ↔ b ∈ (s.ghost.entered ++ pushesOf s.env.partnerProg).flatMap Entry.ringBases := by
  simp only [State.ringBases, List.mem_append]
  refine ⟨fun hb => hb.elim (fun hb => ?_) id, .inr⟩
  split at hb
  · obtain ⟨hl, hr⟩ := h.rings ‹_›
    rw [List.flatMap_append, List.mem_append]
    simp only [List.mem_cons, List.not_mem_nil, or_false] at hb
    rcases hb with rfl | rfl
    · exact .inl hl
    · exact .inl hr
  · cases hb

/-- A cursor access is four aligned bytes. -/
theorem State.cursorAccess_shape {k : EventKind} {a : Word} {n : Nat} (h : s.cursorAccess k a n = true) :
    n = 4 ∧ a.toNat % 4 = 0 := by
  simp only [State.cursorAccess, Bool.and_eq_true, beq_iff_eq] at h
  exact ⟨h.1.1.2, h.1.2⟩

/-- The address of a ring's writeIndex is its base. -/
theorem RingView.widxAddr_eq (g : RingView) : g.widxAddr = g.base := by simp [RingView.widxAddr, addr32]

/-- The address of a ring's readIndex is its base + 4. -/
theorem RingView.ridxAddr_eq (g : RingView) : g.ridxAddr = g.base + 4 := by
  simp [RingView.ridxAddr, addr32, BitVec.ofNat_add]

/-- While RV = 1, a 32-bit access at a cursor word of either ring is a cursor access, but for READ's length field. -/
theorem State.cursorAccess_rings (h : SocketInv s) (hrv : s.status.rv = true) {k : EventKind} (hk : k ≠ .lenRead)
    {a b : Word} (hb : b = s.rings.lbase ∨ b = s.rings.rbase) (ha : a = b ∨ a = b + 4) : s.cursorAccess k a 4 = true := by
  have hbase : b.toNat % 32 = 0 := by
    rcases hb with rfl | rfl
    · exact (h.localOk hrv).baseAligned
    · exact (h.remoteOk hrv).baseAligned
  have hal : a.toNat % 4 = 0 := by
    rcases ha with rfl | rfl
    · omega
    · rw [BitVec.toNat_add]
      simp only [BitVec.reduceToNat]
      omega
  have hmem : a ∈ s.cursorAddrs :=
    State.mem_cursorAddrs.2 ⟨b, by simp only [State.ringBases, hrv]; rcases hb with rfl | rfl <;> simp, ha⟩
  simp [State.cursorAccess, hk, hal, hmem]

/-! ### The negotiation -/

/-- What the teardown of a failed or abandoned OPEN does, for either kind of negotiation. -/
theorem State.tearDownOpen_eq (s : State) : s.tearDownOpen =
    { s with
      status := { s.status with isOpen := if s.neg.kind = .openCmd then false else s.status.isOpen }
      irq := { s.irq with rxie := if s.neg.kind = .openCmd then false else s.irq.rxie } } := by
  cases hk : s.neg.kind <;> simp [State.tearDownOpen, hk]

/-- What the success of a negotiation sets beyond the rings, for either kind. -/
theorem State.finishOpen_eq (s : State) : s.finishOpen =
    { s with
      status := { s.status with isOpen := if s.neg.kind = .openCmd then true else s.status.isOpen }
      irq := { s.irq with rxie := if s.neg.kind = .openCmd then s.neg.cmdWord.getLsbD 5 else s.irq.rxie } } := by
  cases hk : s.neg.kind <;> simp [State.finishOpen, hk]

/-- NEG_FAIL as one record. -/
theorem State.negFail_eq (d : Detail) (s : State) : s.negFail d =
    { s with
      status := { s.status with
        err := d.kind, detail := d
        isOpen := if s.neg.kind = .openCmd then false else s.status.isOpen }
      irq := { s.irq with rxie := if s.neg.kind = .openCmd then false else s.irq.rxie }
      fsm := .idle
      neg := { s.neg with ents := [], timeoutEv := false } } := by
  simp [State.negFail, State.tearDownOpen_eq, State.raise, State.negOver]

/-- NEG_SUCCESS as one record. -/
theorem State.negSuccess_eq (gL gR : Desc) (s : State) : s.negSuccess gL gR =
    { s with
      status := { s.status with
        rv := true, hwf := false, err := .ok, detail := .none
        isOpen := if s.neg.kind = .openCmd then true else s.status.isOpen }
      irq := { s.irq with rxie := if s.neg.kind = .openCmd then s.neg.cmdWord.getLsbD 5 else s.irq.rxie }
      rings := ringsOf gL gR
      fsm := .idle
      neg := { s.neg with ents := [], timeoutEv := false } } := by
  simp [State.negSuccess, State.finishOpen_eq, State.complete, State.negOver]

theorem Seen.judge_error {sn : Seen} {e : Entry} {d : Detail} (h : sn.judge e = .error d) :
    d.kind = .negotiationFailed := by
  simp only [Seen.judge] at h
  split at h
  · split at h <;> cases h; rfl
  · split at h <;> cases h; rfl
  · split at h <;> cases h; rfl
  · cases h; rfl

theorem Seen.judgeAll_error {sn : Seen} {es : List Entry} {d : Detail} (h : sn.judgeAll es = .error d) :
    d.kind = .negotiationFailed := by
  induction es generalizing sn with
  | nil => cases h
  | cons e es ih =>
    simp only [Seen.judgeAll] at h
    split at h
    · exact ih h
    · cases h; exact Seen.judge_error ‹_›

/-- The entry decoder reads back the entry it was given. -/
theorem decodeEntry_ok {e : Entry} {i : Instr} (h : decodeEntry e = .ok i) :
    (∃ d, e = ⟨tagLocal, d⟩ ∧ i = .localBufferDesc d) ∨ (∃ d, e = ⟨tagRemote, d⟩ ∧ i = .remoteBufferDesc d) ∨
      ∃ d, e = ⟨tagEnd, d⟩ ∧ i = .endOfSetup d := by
  obtain ⟨c, d⟩ := e
  simp only [decodeEntry] at h
  split at h
  · exact .inl ⟨d, by simp_all, by simpa using h.symm⟩
  · split at h
    · exact .inr (.inl ⟨d, by simp_all, by simpa using h.symm⟩)
    · split at h
      · exact .inr (.inr ⟨d, by simp_all, by simpa using h.symm⟩)
      · cases h

/-- What one judged entry adds to the descriptors seen. -/
theorem Seen.judge_ok {sn sn' : Seen} {e : Entry} (h : sn.judge e = .ok sn') :
    (∃ d, e = ⟨tagLocal, d⟩ ∧ sn' = { sn with loc := some d }) ∨
      (∃ d, e = ⟨tagRemote, d⟩ ∧ sn' = { sn with rem := some d }) ∨
      ∃ d, e = ⟨tagEnd, d⟩ ∧ sn' = { sn with fin := true } := by
  cases hd : decodeEntry e with
  | error x => simp [Seen.judge, hd] at h
  | ok i =>
    rcases decodeEntry_ok hd with ⟨d, rfl, rfl⟩ | ⟨d, rfl, rfl⟩ | ⟨d, rfl, rfl⟩ <;>
      simp only [Seen.judge, hd] at h <;> split at h <;> cases h
    · exact .inl ⟨d, rfl, rfl⟩
    · exact .inr (.inl ⟨d, rfl, rfl⟩)
    · exact .inr (.inr ⟨d, rfl, rfl⟩)

/-- What a judgement that went on has seen of the descriptors stood in the entries. -/
theorem Seen.judgeAll_ok {es : List Entry} {sn sn' : Seen} (h : sn.judgeAll es = .ok sn') :
    (∀ d, sn'.loc = some d → sn.loc = some d ∨ (⟨tagLocal, d⟩ : Entry) ∈ es) ∧
      ∀ d, sn'.rem = some d → sn.rem = some d ∨ (⟨tagRemote, d⟩ : Entry) ∈ es := by
  induction es generalizing sn with
  | nil => cases h; exact ⟨fun _ => .inl, fun _ => .inl⟩
  | cons e es ih =>
    simp only [Seen.judgeAll] at h
    split at h
    · rename_i u hu
      obtain ⟨h1, h2⟩ := ih h
      refine ⟨fun d hd => ?_, fun d hd => ?_⟩
      · rcases h1 d hd with hd | hd
        · rcases Seen.judge_ok hu with ⟨x, rfl, rfl⟩ | ⟨x, rfl, rfl⟩ | ⟨x, rfl, rfl⟩
          · cases hd; exact .inr List.mem_cons_self
          · exact .inl hd
          · exact .inl hd
        · exact .inr (List.mem_cons_of_mem _ hd)
      · rcases h2 d hd with hd | hd
        · rcases Seen.judge_ok hu with ⟨x, rfl, rfl⟩ | ⟨x, rfl, rfl⟩ | ⟨x, rfl, rfl⟩
          · exact .inl hd
          · cases hd; exact .inr List.mem_cons_self
          · exact .inl hd
        · exact .inr (List.mem_cons_of_mem _ hd)
    · cases h

/-- The bases of a judgement that succeeds are those of rings the entries place. -/
theorem negJudge_ringBases {hdr : Nat} {es : List Entry} {gL gR : Desc} (h : negJudge hdr es = .ok (gL, gR)) :
    gL.base ∈ es.flatMap Entry.ringBases ∧ gR.base ∈ es.flatMap Entry.ringBases := by
  simp only [negJudge] at h
  split at h
  · cases h
  · rename_i sn hsn
    obtain ⟨h1, h2⟩ := Seen.judgeAll_ok hsn
    split at h
    · rename_i l r hl hr
      have hg : gL = descParse hdr l ∧ gR = descParse hdr r := by
        simp only [judgeCaps] at h
        split at h
        · cases h
        · split at h <;> cases h; exact ⟨rfl, rfl⟩
      rw [hg.1, hg.2]
      exact ⟨List.mem_flatMap.2 ⟨_, (h1 l hl).resolve_left nofun, by simp [Entry.ringBases, descParse]⟩,
        List.mem_flatMap.2 ⟨_, (h2 r hr).resolve_left nofun, by simp [Entry.ringBases, descParse]⟩⟩
    · cases h

/-- The judgement of entries is a success of two valid parsed descriptors, or a NegotiationFailed. -/
theorem negJudge_cases (hdr : Nat) (es : List Entry) :
    (∃ l r, negJudge hdr es = .ok (descParse hdr l, descParse hdr r) ∧
      0 < (descParse hdr l).cap ∧ 0 < (descParse hdr r).cap) ∨
    ∃ d, negJudge hdr es = .error d ∧ d.kind = .negotiationFailed := by
  simp only [negJudge]
  split
  · rename_i d h
    exact .inr ⟨d, rfl, Seen.judgeAll_error h⟩
  · split
    · rename_i l r _ _
      simp only [judgeCaps, Desc.valid]
      by_cases hl : 0 < (descParse hdr l).cap
      · by_cases hr : 0 < (descParse hdr r).cap
        · exact .inl ⟨l, r, by simp [hl, hr], hl, hr⟩
        · exact .inr ⟨.negBadRemoteCap, by simp [hl, hr], rfl⟩
      · exact .inr ⟨.negBadLocalCap, by simp [hl], rfl⟩
    · exact .inr ⟨_, rfl, rfl⟩

theorem State.negEval_ok {gL gR : Desc} (h : negJudge s.cfg.rbHdrSize s.neg.ents = .ok (gL, gR)) :
    s.negEval = s.negSuccess gL gR := by
  simp [State.negEval, h]

theorem State.negEval_error {d : Detail} (h : negJudge s.cfg.rbHdrSize s.neg.ents = .error d) :
    s.negEval = s.negFail d := by
  simp [State.negEval, h]

/-- One of the first two entries is recorded and nothing else happens. -/
theorem State.takeEntry_few (e : Entry) (h : s.fsm = .negWait) (hk : s.neg.ents.length < 2) :
    s.takeEntry e = { s with neg := { s.neg with ents := s.neg.ents ++ [e] } } := by
  have : s.neg.ents.length + 1 ≠ 3 := by omega
  simp [State.takeEntry, h, Config.negEntries, this]

/-- The third entry is judged with the other two. -/
theorem State.takeEntry_third (e : Entry) (h : s.fsm = .negWait) (hk : s.neg.ents.length = 2) :
    s.takeEntry e = State.negEval { s with neg := { s.neg with ents := s.neg.ents ++ [e] } } := by
  simp [State.takeEntry, h, Config.negEntries, hk]

/-- A popped entry is taken whatever its tag: the tags' meanings and the unknown tag do the same. -/
theorem State.receive_eq (e : Entry) (s : State) : s.receive e = .next (s.takeEntry e) := by
  simp only [State.receive]
  split
  · rename_i i h
    rcases decodeEntry_ok h with ⟨d, rfl, rfl⟩ | ⟨d, rfl, rfl⟩ | ⟨d, rfl, rfl⟩ <;> rfl
  · rfl

/-- NEG_ABORT as one record, for either aborting command. -/
theorem State.negAbort_eq (s : State) : s.negAbort =
    if opcField s.neg.abortCmd = 2 then
      { s with
        status := { s.status with
          lopc := opcField s.neg.abortCmd, isOpen := false, rv := false, hwf := false, err := .ok, detail := .none }
        rings := Rings.unset
        irq := ⟨false, false⟩
        fsm := .idle
        neg := { s.neg with ents := [], abortReq := false, timeoutEv := false } }
    else
      { s with
        status := { s.status with
          lopc := opcField s.neg.abortCmd, rv := false, hwf := false, err := .ok, detail := .none
          isOpen := if s.neg.kind = .openCmd then false else s.status.isOpen }
        rings := Rings.unset
        irq := { s.irq with rxie := if s.neg.kind = .openCmd then false else s.irq.rxie }
        fsm := .idle
        neg := { s.neg with ents := [], abortReq := false, timeoutEv := false }
        mbx := s.mbx.clear (s.neg.abortCmd.getLsbD 4) } := by
  simp only [State.negAbort, State.tearDownOpen_eq]
  split <;> rfl

/-- What NEG_POP can do. -/
theorem State.negPop_cases {c : CtlChoice} (h : s.negPop c = .next t) :
    (s.neg.abortReq = true ∧ t = s.negAbort) ∨
    (s.neg.abortReq = false ∧ s.neg.timeoutEv = true ∧ t = s.negFail .negTimeout) ∨
    (s.neg.abortReq = false ∧ s.neg.timeoutEv = false ∧ s.mbx.inbound = [] ∧ t = s) ∨
    (s.neg.abortReq = false ∧ s.neg.timeoutEv = false ∧ ∃ e es, s.mbx.inbound = e :: es ∧
      (((c.popErr && s.cfg.popMayFail) = true ∧ t = s.popFailed) ∨
        ((c.popErr && s.cfg.popMayFail) = false ∧ t = (s.popped e es).takeEntry e))) := by
  simp only [State.negPop] at h
  split at h
  · exact .inl ⟨‹_›, by simpa using h.symm⟩
  · split at h
    · exact .inr (.inl ⟨by simp_all, ‹_›, by simpa using h.symm⟩)
    · split at h
      · exact .inr (.inr (.inl ⟨by simp_all, by simp_all, ‹_›, by simpa using h.symm⟩))
      · rename_i e es he
        refine .inr (.inr (.inr ⟨by simp_all, by simp_all, e, es, he, ?_⟩))
        split at h
        · exact .inl ⟨‹_›, by simpa using h.symm⟩
        · exact .inr ⟨by simp_all, by simpa [State.receive_eq] using h.symm⟩

/-! ### Accesses and free values -/

@[simp] theorem wordBytes_length (m : Nat → Mark) (v : Word) : (wordBytes m v).length = 4 := rfl

/-- The values of a 32-bit access's bytes are the word's, least significant first. -/
@[simp] theorem wordBytes_val (m : Nat → Mark) (v : Word) : (wordBytes m v).map EventByte.val = le32 v := rfl

@[simp] theorem entryBytes_length (e : Entry) : (entryBytes e).length = 8 := rfl

/-- What a read of memory as one event does: it takes free values and is recorded. -/
theorem State.loadBytes_eq (agent : Agent) (kind : EventKind) (a : Word) (bs : List EventByte) (s : State) :
    s.loadBytes agent kind a bs =
      { s with ghost := { s.ghost with
          draws := s.ghost.draws + bs.length
          trace := ⟨agent, s.ghost.cmdNo, kind, a, bs, s.cursorAccess kind a bs.length⟩ :: s.ghost.trace } } := rfl

/-- What a write of memory as one event does: its bytes are written, and it takes free values and is recorded. -/
theorem State.storeBytes_eq (agent : Agent) (kind : EventKind) (a : Word) (bs : List EventByte) (s : State) :
    s.storeBytes agent kind a bs =
      { s with
        mem := s.mem.writeBytes a (bs.map EventByte.val)
        ghost := { s.ghost with
          draws := s.ghost.draws + bs.length
          trace := ⟨agent, s.ghost.cmdNo, kind, a, bs, s.cursorAccess kind a bs.length⟩ :: s.ghost.trace } } := rfl

/-- A byte that is not free is read from memory. -/
theorem State.byteRead_eq {m : Mark} (h : m.free = false) (a : Word) (k : Nat) (s : State) :
    s.byteRead a k m = s.mem.read8 a := by
  simp [State.byteRead, h, State.load8]

/-- A byte that is not free is written as given. -/
theorem State.byteWritten_eq {m : Mark} (h : m.free = false) (b : Byte) (k : Nat) (s : State) :
    s.byteWritten b k m = b := by
  simp [State.byteWritten, h]

/-- A word with no free byte is read from memory. -/
theorem State.wordRead_eq {m : Nat → Mark} (h : ∀ k < 4, (m k).free = false) (a : Word) (s : State) :
    s.wordRead a m = s.mem.read32 a := by
  simp [State.wordRead, State.byteRead_eq, h, Mem.read32]

/-- The marks of a command's access that neither races nor overlaps are clear. -/
theorem State.cmdMarks_free {g : RingView} {a : Word} {k : Nat} (h : s.overlapped g (a + BitVec.ofNat 32 k) = false) :
    (s.cmdMarks g 0 a k).free = false := by
  simp [State.cmdMarks, Mark.free, h]

/-- A 32-bit read of the command that neither races nor overlaps returns memory's word. -/
theorem State.wordRead_cmdMarks {g : RingView} {a : Word}
    (h : ∀ k < 4, s.overlapped g (a + BitVec.ofNat 32 k) = false) :
    s.wordRead a (s.cmdMarks g 0 a) = s.mem.read32 a :=
  State.wordRead_eq (fun k hk => State.cmdMarks_free (h k hk)) a s

/-- The bytes of a 32-bit access of the command that neither races nor overlaps have clear marks. -/
theorem State.wordBytes_cmdMarks {g : RingView} {a : Word}
    (h : ∀ k < 4, s.overlapped g (a + BitVec.ofNat 32 k) = false) (v : Word) :
    wordBytes (s.cmdMarks g 0 a) v = wordBytes (fun _ => Mark.clear) v := by
  have hm : ∀ k < 4, s.cmdMarks g 0 a k = Mark.clear := fun k hk => by simp [State.cmdMarks, Mark.clear, h k hk]
  simp only [wordBytes, hm 0 (by decide), hm 1 (by decide), hm 2 (by decide), hm 3 (by decide)]

/-- What a 32-bit read of the running command does: it keeps the value read, and is one event. -/
theorem State.loadWord_eq (kind : EventKind) (g : RingView) (race : BitVec 4) (a : Word) (keep : Word → Xfer → Xfer)
    (s : State) : s.loadWord kind g race a keep =
      { s with
        xfer := keep (s.wordRead a (s.cmdMarks g race a)) s.xfer
        ghost := s.readRecorded kind a (s.cmdMarks g race a) (s.wordRead a (s.cmdMarks g race a))
          (s.cursorAccess kind a 4) } := rfl

/-- A byte outside the host's buffer is in no overlap. -/
theorem State.overlapped_of_not_buffer {g : RingView} {a : Word}
    (h : inRun s.args.addr s.args.len.toNat a = false) : s.overlapped g a = false := by
  simp [State.overlapped, h]

/-- What a register read does: it answers, and may record that the host saw BUSY = 0. -/
theorem State.hostRead_cases (acc : Access) (s : State) :
    s.hostRead acc = s.respond (.data (s.readOffset acc.offset)) ∨
      (s.fsm = .idle ∧
        s.hostRead acc = (s.respond (.data (s.readOffset acc.offset))).emit .host .idleRead 0 []) := by
  simp only [State.hostRead]
  split
  · rename_i h
    exact .inr ⟨by simpa [State.busy] using h.2, rfl⟩
  · exact .inl rfl

/-! ### WRITE and READ in EXEC -/

/-- A data access while one is pending: some pending access is performed, or gets an error. -/
theorem State.dataStep_cases (c : CtlChoice) (h : s.xfer.todo ≠ []) :
    ∃ i op, i < s.xfer.todo.length ∧ s.xfer.todo[i]? = some op ∧
      s.dataStep c = if c.busError then s.busFail else s.performOp (c.race.getLsbD 0) i op := by
  have hl : 0 < s.xfer.todo.length := List.length_pos_iff.2 h
  have hi : c.pick % s.xfer.todo.length < s.xfer.todo.length := Nat.mod_lt _ hl
  refine ⟨_, s.xfer.todo[c.pick % s.xfer.todo.length], hi, List.getElem?_eq_getElem hi, ?_⟩
  simp only [State.dataStep, List.getElem?_eq_getElem hi]

/-- The publish: the cursor word is written and the signal comes next, or the write fails and the word is free. -/
theorem State.publishStep_cases (c : CtlChoice) (g : RingView) (a v : Word) (s : State) :
    (c.busError = true ∧ s.publishStep c g a v =
      (s.storeBytes .controller .plainWrite a (wordBytes (fun _ => Mark.clear) s.freeWord)).busFail) ∨
    (c.busError = false ∧ s.publishStep c g a v =
      (s.storeBytes .controller .relWrite a
        (wordBytes (s.cmdMarks g c.race a) (s.wordWritten v (s.cmdMarks g c.race a)))).setPhase .signal) := by
  simp only [State.publishStep]
  split
  · exact .inl ⟨‹_›, rfl⟩
  · exact .inr ⟨by simp_all, rfl⟩

/-- What a controller step can be. -/
theorem State.controllerTurn_cases {c : CtlChoice} (h : s.controllerTurn c = .next t) :
    (s.fsm = .idle ∧ t = s) ∨ (s.fsm = .negWait ∧ s.negPop c = .next t) ∨
    (s.fsm = .exec ∧ s.xfer.cmd = .write ∧ t = s.writeStep c) ∨
    (s.fsm = .exec ∧ s.xfer.cmd = .read ∧ t = s.readStep c) := by
  simp only [State.controllerTurn] at h
  split at h
  · exact .inl ⟨‹_›, by simpa using h.symm⟩
  · exact .inr (.inl ⟨‹_›, h⟩)
  · split at h
    · exact .inr (.inr (.inl ⟨‹_›, ‹_›, by simpa using h.symm⟩))
    · exact .inr (.inr (.inr ⟨‹_›, ‹_›, by simpa using h.symm⟩))

/-! ### The other agents and the step -/

/-- The CMD decoder answers commands only, never a tag. -/
theorem decodeCmd_ok {c : Word} {i : Instr} (h : decodeCmd c = .ok i) :
    (∃ b, i = .openSocket b) ∨ i = .close ∨ i = .negPend ∨ i = .negotiate ∨ (∃ b, i = .reset b) ∨
      i = .write ∨ i = .read := by
  simp only [decodeCmd] at h
  split at h
  · rename_i r hr
    have hm := List.mem_of_find?_eq_some hr
    simp only [cmdTable, List.mem_cons, List.not_mem_nil, or_false] at hm
    cases h
    rcases hm with rfl | rfl | rfl | rfl | rfl | rfl | rfl <;> simp
  · cases h

/-- What a step can be: the turn the schedule names, or the controller's. -/
theorem step_cases (h : step s = .next t) :
    (s.env.sched = [] ∧ s.controllerTurn CtlChoice.plain = .next t) ∨
    ∃ u ts, s.env.sched = u :: ts ∧ (s.setSched ts).takeTurn u = .next t := by
  simp only [step, State.nextTurn] at h
  split at h
  · exact .inl ⟨‹_›, h⟩
  · exact .inr ⟨_, _, ‹_›, h⟩

/-- A partner event sets RXP on an open socket and leaves no trace on a closed one. -/
theorem State.partnerEvent_eq (s : State) : s.partnerEvent =
    { s with irq := { s.irq with rxp := s.irq.rxp || s.status.isOpen } } := by
  cases h : s.status.isOpen <;> simp [State.partnerEvent, h]

/-- A free byte at each address of a list changes memory, the draws and the trace, and the memory only there. -/
theorem State.scramble_frame (as : List Word) (s : State) :
    State.scramble as s = { s with mem := (State.scramble as s).mem, ghost := (State.scramble as s).ghost } ∧
      (Mem.wf s.mem = true → Mem.wf (State.scramble as s).mem = true ∧
        ∀ a, a ∉ as → (State.scramble as s).mem.read8 a = s.mem.read8 a) := by
  induction as generalizing s with
  | nil => exact ⟨rfl, fun h => ⟨h, fun _ _ => rfl⟩⟩
  | cons b as ih =>
    obtain ⟨h1, h2⟩ := ih (s.storeBytes .controller .plainWrite b [{ val := s.freeByte 0, mark := Mark.clear }])
    refine ⟨h1, fun hw => ?_⟩
    obtain ⟨h3, h4⟩ := h2 (Mem.wf_write8 hw b _)
    refine ⟨h3, fun a ha => ?_⟩
    simp only [List.mem_cons, not_or] at ha
    refine (h4 a ha.2).trans ?_
    exact (Mem.read8_write8 hw b _ a).trans (if_neg ha.1)

/-- What a write at an offset of the register window can be. -/
theorem State.writeOffset_cases {off : BitVec 8} {v : Word} (h : s.writeOffset off v = .next t) :
    (regAt off = none ∧ t = s) ∨ (regAt off = some .cmd ∧ s.cmdWrite v = .next t) ∨
    ∃ r, r ≠ .cmd ∧ regAt off = some r ∧ t = s.writeReg r v := by
  simp only [State.writeOffset] at h
  split at h
  · exact .inl ⟨‹_›, by simpa using h.symm⟩
  · exact .inr (.inl ⟨‹_›, h⟩)
  · rename_i r hne hr
    exact .inr (.inr ⟨r, hne, hr, by simpa using h.symm⟩)

/-! ### Executions -/

/-- A host's read that follows its STATUS read showing BUSY = 0 sees a command's write, or a write after it
(`20_memory.md` R51, item 2; for a command that reset abandoned, log 28). -/
theorem Execution.Consistent.hostSeesCommand {x : Execution} (hx : x.Consistent) {i j q : Nat} {e f : Event} {a : Word}
    (he : x.At i e) (hf : x.At j f) (hc : e.agent = .controller) (hw : e.kind.writes = true) (ha : e.covers a)
    (hs : f.kind = .idleRead) (hn : e.cmdNo ≤ f.cmdNo) (hq : x.InOrder .host j q) (hr : x.ReadsAt q a) :
    x.rf q a ≠ none ∧ ∀ w, x.mo a w i → x.rf q a ≠ some w :=
  have hh : f.agent = .host := (hx.events j f hf).registers (.inr hs)
  have h₁ : x.hbEdge i j := .inl ⟨e, f, he, hf, .inr (.inr ⟨hc, hh, hs, hn⟩)⟩
  have h₂ : x.hbEdge j q := .inr (.inr (.inl (hx.ownOrders.host.seesIdle j q f hq hf hs)))
  hx.coherent.readsFresh a i q ⟨e, he, hw, ha⟩ hr (.tail (.single h₁) h₂)

end Sys2Proof.Machine
end

