-- ==== Sys2Proof/Laws/PerInstr.lean ====
section
/-! SUPPORT. Statements made for every instruction, one lemma per constructor of Instr. -/

namespace Sys2Proof.Laws

/-- How many 32-bit words the format of an instruction has (`30_encoding.md` R63): a command is one CMD word, a tag is
the first word of a two-word FIFO entry. -/
def formatWords : Instr → Nat
  | .openSocket _ => 1
  | .close => 1
  | .negPend => 1
  | .negotiate => 1
  | .reset _ => 1
  | .write => 1
  | .read => 1
  | .localBufferDesc _ => 2
  | .remoteBufferDesc _ => 2
  | .endOfSetup _ => 2

/-- The encoding of an instruction has its format's length and starts with its opcode word or tag, and the instruction
is well formed. -/
def Format.Statement (i : Instr) : Prop :=
  i.wf = true ∧ (encode i).length = formatWords i ∧ (encode i).head? = some (firstWord i)

theorem Format.openSocket (rxie : Bool) : Format.Statement (.openSocket rxie) := ⟨rfl, rfl, rfl⟩
theorem Format.close : Format.Statement .close := ⟨rfl, rfl, rfl⟩
theorem Format.negPend : Format.Statement .negPend := ⟨rfl, rfl, rfl⟩
theorem Format.negotiate : Format.Statement .negotiate := ⟨rfl, rfl, rfl⟩
theorem Format.reset (both : Bool) : Format.Statement (.reset both) := ⟨rfl, rfl, rfl⟩
theorem Format.write : Format.Statement .write := ⟨rfl, rfl, rfl⟩
theorem Format.read : Format.Statement .read := ⟨rfl, rfl, rfl⟩
theorem Format.localBufferDesc (data : Word) : Format.Statement (.localBufferDesc data) := ⟨rfl, rfl, rfl⟩
theorem Format.remoteBufferDesc (data : Word) : Format.Statement (.remoteBufferDesc data) := ⟨rfl, rfl, rfl⟩
theorem Format.endOfSetup (data : Word) : Format.Statement (.endOfSetup data) := ⟨rfl, rfl, rfl⟩

end Sys2Proof.Laws
end

