-- ==== Sys2Proof/Laws/Ring.lean ====
section
/-! SUPPORT. Words and their bytes, runs of addresses, and ring positions. -/

namespace Sys2Proof.Machine

/-! ### Words and bytes -/

@[simp] theorem le32_length (v : Word) : (le32 v).length = 4 := rfl

@[simp] theorem IdRegs.bytes_length (r : IdRegs) : r.bytes.length = 16 := rfl

/-- A word is made of its four bytes. -/
theorem wordOfBytes_byteOf (v : Word) : wordOfBytes (byteOf v 0) (byteOf v 1) (byteOf v 2) (byteOf v 3) = v := by
  apply BitVec.eq_of_getLsbD_eq
  intro i hi
  simp only [wordOfBytes, byteOf, BitVec.getLsbD_append, BitVec.getLsbD_extractLsb']
  split
  · simp [*]
  · split
    · rw [decide_eq_true (by omega), Bool.true_and]; congr 1; omega
    · split
      · rw [decide_eq_true (by omega), Bool.true_and]; congr 1; omega
      · rw [decide_eq_true (by omega), Bool.true_and]; congr 1; omega

/-- A word whose written bytes are all determined is written as given. -/
theorem State.wordWritten_eq {m : Nat → Mark} (h : ∀ k < 4, (m k).free = false) (v : Word) (s : State) :
    s.wordWritten v m = v := by
  have h0 := h 0 (by omega)
  have h1 := h 1 (by omega)
  have h2 := h 2 (by omega)
  have h3 := h 3 (by omega)
  simp only [State.wordWritten, State.byteWritten, h0, h1, h2, h3, Bool.false_eq_true, if_false]
  exact wordOfBytes_byteOf v

/-- The bits of the byte mask. -/
theorem ofNat_0xFF_getLsbD (n : Nat) : (0xFF#32).getLsbD n = decide (n < 8) := by
  by_cases h : n < 32
  · interval_cases n <;> rfl
  · rw [BitVec.getLsbD_of_ge _ _ (by omega)]; simp; omega

/-- A byte of a word with one byte replaced. -/
theorem byteOf_setByteOf (v : Word) (j k : Nat) (b : Byte) (hj : j < 4) :
    byteOf (setByteOf v k b) j = if j = k then b else byteOf v j := by
  apply BitVec.eq_of_getLsbD_eq
  intro i hi
  have h32 : 8 * j + i < 32 := by omega
  simp only [setByteOf, byteOf, BitVec.getLsbD_extractLsb', BitVec.getLsbD_or, BitVec.getLsbD_and, BitVec.getLsbD_not,
    BitVec.getLsbD_shiftLeft, BitVec.getLsbD_setWidth, BitVec.ofNat_eq_ofNat, ofNat_0xFF_getLsbD, hi, h32]
  split
  · rename_i hjk
    have h3 : i < 32 := by omega
    rw [hjk]
    simp [hi, h3]
  · rcases Nat.lt_or_gt_of_ne ‹j ≠ k› with h | h
    · have h1 : 8 * j + i < 8 * k := by omega
      simp [h1, hi]
    · have h1 : ¬ 8 * j + i < 8 * k := by omega
      have h2 : ¬ 8 * j + i - 8 * k < 8 := by omega
      rw [BitVec.getLsbD_of_ge b (8 * j + i - 8 * k) (by omega)]
      simp [h1, h2, hi]

/-- A register of an id file with one register replaced. -/
theorem IdRegs.word_setWord (r : IdRegs) (j k : Nat) (v : Word) (hj : j < 4) (hk : k < 4) :
    (r.setWord k v).word j = if j = k then v else r.word j := by
  interval_cases j <;> interval_cases k <;> rfl

/-- An id byte after one id byte is replaced. -/
theorem IdRegs.byte_setByte (r : IdRegs) (j k : Nat) (b : Byte) (hj : j < 16) (hk : k < 16) :
    (r.setByte k b).byte j = if j = k then b else r.byte j := by
  simp only [IdRegs.setByte, IdRegs.byte]
  rw [IdRegs.word_setWord _ _ _ _ (by omega) (by omega)]
  by_cases hw : j / 4 = k / 4
  · rw [if_pos hw, byteOf_setByteOf _ _ _ _ (by omega), hw]
    by_cases h : j = k
    · simp [h]
    · rw [if_neg (by omega), if_neg h]
  · rw [if_neg hw, if_neg (by intro h; exact hw (by rw [h]))]

/-! ### Runs of addresses -/

/-- An address is in a run iff it is one of the run's addresses. -/
theorem inRun_iff (start a : Word) (len : Nat) :
    inRun start len a = true ↔ ∃ k < len, a = start + BitVec.ofNat 32 k := by
  simp only [inRun, decide_eq_true_eq]
  constructor
  · intro h
    refine ⟨_, h, ?_⟩
    rw [BitVec.ofNat_toNat, BitVec.setWidth_eq]
    bv_omega
  · rintro ⟨k, hk, rfl⟩
    have : start + BitVec.ofNat 32 k - start = BitVec.ofNat 32 k := by bv_omega
    rw [this, BitVec.toNat_ofNat]
    exact lt_of_le_of_lt (Nat.mod_le _ _) hk

/-- The overlap of the host's buffer and a command's ring, as addresses. -/
theorem State.overlapped_iff (s : State) (g : RingView) (a : Word) :
    s.overlapped g a = true ↔ (∃ i < s.args.len.toNat, a = s.args.addr + BitVec.ofNat 32 i) ∧
      ∃ k < s.cfg.rbHdrSize + g.cap, a = g.base + BitVec.ofNat 32 k := by
  simp [State.overlapped, inRun_iff]

/-- Where the buffer and the ring share no address, no byte is in an overlap. -/
theorem State.overlapped_false {s : State} {g : RingView}
    (h : ∀ i < s.args.len.toNat, ∀ k < s.cfg.rbHdrSize + g.cap,
      s.args.addr + BitVec.ofNat 32 i ≠ g.base + BitVec.ofNat 32 k) (a : Word) : s.overlapped g a = false := by
  rw [Bool.eq_false_iff]
  intro ho
  obtain ⟨⟨i, hi, rfl⟩, k, hk, he⟩ := (s.overlapped_iff g a).1 ho
  exact h i hi k hk he

/-- Reading a word back after writing its bytes. -/
theorem Mem.read32_writeBytes_le32 {m : Mem} (h : Mem.wf m = true) (a v : Word) :
    (m.writeBytes a (le32 v)).read32 a = v := by
  have w1 := Mem.wf_write8 h a (byteOf v 0)
  have w2 := Mem.wf_write8 w1 (a + 1) (byteOf v 1)
  have w3 := Mem.wf_write8 w2 (a + 1 + 1) (byteOf v 2)
  simp only [Mem.read32, le32, Mem.writeBytes, Mem.read8_write8 w3, Mem.read8_write8 w2, Mem.read8_write8 w1, Mem.read8_write8 h]
  rw [show a + 1 + 1 = a + 2 by bv_omega, show a + 2 + 1 = a + 3 by bv_omega]
  have e01 : a + 1 ≠ a := by bv_omega
  have e02 : a + 2 ≠ a := by bv_omega
  have e03 : a + 3 ≠ a := by bv_omega
  have e12 : a + 2 ≠ a + 1 := by bv_omega
  have e13 : a + 3 ≠ a + 1 := by bv_omega
  have e23 : a + 3 ≠ a + 2 := by bv_omega
  simp only [e01, e02, e03, e12, e13, e23, e01.symm, e02.symm, e03.symm, e12.symm, e13.symm, e23.symm, if_true, if_false]
  exact wordOfBytes_byteOf v

/-- The word at an address is made of the four bytes there. -/
theorem Mem.read32_congr {m n : Mem} {a : Word}
    (h : ∀ k < 4, m.read8 (a + BitVec.ofNat 32 k) = n.read8 (a + BitVec.ofNat 32 k)) : m.read32 a = n.read32 a := by
  have h0 := h 0 (by omega)
  have h1 := h 1 (by omega)
  have h2 := h 2 (by omega)
  have h3 := h 3 (by omega)
  simp only [BitVec.add_zero] at h0 h1 h2 h3
  simp only [Mem.read32, h0]
  congr 1

/-! ### Cursors and ring positions -/

theorem cursorOK_iff (v : Word) (cap : Nat) : cursorOK v cap = true ↔ v.toNat < cap ∧ v.toNat % 16 = 0 := by
  simp [cursorOK, Config.rbAlignment]

/-- Offsets below the capacity are told apart by their ring positions. -/
theorem add_mod_inj {pos cap i j : Nat} (hi : i < cap) (hj : j < cap) (h : (pos + i) % cap = (pos + j) % cap) :
    i = j := by
  have := Nat.ModEq.add_left_cancel' pos h
  rwa [Nat.ModEq, Nat.mod_eq_of_lt hi, Nat.mod_eq_of_lt hj] at this

/-- Distinct offsets below the capacity are distinct addresses. -/
theorem RingView.byteAddr_inj (g : RingView) (hdr pos i j : Nat) (hcap : g.cap ≤ 2 ^ 32) (hi : i < g.cap)
    (hj : j < g.cap) (h : g.byteAddr hdr pos i = g.byteAddr hdr pos j) : i = j := by
  refine add_mod_inj (pos := pos) hi hj ?_
  have h1 := Nat.mod_lt (pos + i) (by omega : 0 < g.cap)
  have h2 := Nat.mod_lt (pos + j) (by omega : 0 < g.cap)
  simp only [RingView.byteAddr, RingView.dataAddr, addr32] at h
  have := congrArg BitVec.toNat h
  simp only [BitVec.toNat_ofNat] at this
  have h3 : (pos + i) % g.cap ≡ (pos + j) % g.cap [MOD 2 ^ 32] := Nat.ModEq.add_left_cancel' _ this
  rwa [Nat.ModEq, Nat.mod_eq_of_lt (b := 2 ^ 32) (lt_of_lt_of_le h1 hcap),
    Nat.mod_eq_of_lt (b := 2 ^ 32) (lt_of_lt_of_le h2 hcap)] at h3

/-- The address of a block byte, as a distance from the data area's start. -/
theorem RingView.byteAddr_sub (g : RingView) (hdr pos i : Nat) :
    g.byteAddr hdr pos i = g.dataAddr hdr 0 + BitVec.ofNat 32 ((pos + i) % g.cap) := by
  simp [RingView.byteAddr, RingView.dataAddr, addr32, BitVec.ofNat_add]

end Sys2Proof.Machine
end

