-- ==== Sys2Proof/Laws/Plan.lean ====
section
/-! SUPPORT. The data accesses of WRITE and READ: how many steps a list of them takes, and where they write. -/

namespace Sys2Proof.Machine

/-! ### Steps -/

theorem stepsOf_append (a b : List DataOp) : stepsOf (a ++ b) = stepsOf a + stepsOf b := by simp [stepsOf]

theorem stepsOf_const {l : List DataOp} {n : Nat} (h : ∀ o ∈ l, o.steps = n) : stepsOf l = l.length * n := by
  simp only [stepsOf]
  rw [List.map_congr_left h]
  simp

/-- Removing an access removes its steps. -/
theorem stepsOf_eraseIdx {l : List DataOp} {i : Nat} {op : DataOp} (h : l[i]? = some op) :
    stepsOf (l.eraseIdx i) + op.steps = stepsOf l := by
  induction l generalizing i with
  | nil => simp at h
  | cons x l ih =>
    cases i with
    | zero =>
      simp only [List.getElem?_cons_zero, Option.some.injEq] at h
      subst h
      simp [stepsOf]
      omega
    | succ i =>
      have := ih (i := i) (by simpa using h)
      simp only [stepsOf, List.eraseIdx_cons_succ, List.map_cons, List.sum_cons] at this ⊢
      omega

/-- Replacing an access replaces its steps. -/
theorem stepsOf_set {l : List DataOp} {i : Nat} {op : DataOp} (o : DataOp) (h : l[i]? = some op) :
    stepsOf (l.set i o) + op.steps = stepsOf l + o.steps := by
  induction l generalizing i with
  | nil => simp at h
  | cons x l ih =>
    cases i with
    | zero =>
      simp only [List.getElem?_cons_zero, Option.some.injEq] at h
      subst h
      simp [stepsOf]
      omega
    | succ i =>
      have := ih (i := i) (by simpa using h)
      simp only [stepsOf, List.set_cons_succ, List.map_cons, List.sum_cons] at this ⊢
      omega

/-! ### WRITE -/

@[simp] theorem State.blockHead_length (s : State) : s.blockHead.length = 24 := by simp [State.blockHead]

theorem State.writePlan_ne_nil (s : State) (w : Nat) : s.writePlan w ≠ [] := by
  intro h
  have := congrArg List.length h
  simp [State.writePlan] at this

/-- WRITE's data accesses take one step for each head byte and two for each payload byte. -/
theorem State.writePlan_steps (s : State) (w : Nat) : stepsOf (s.writePlan w) = 24 + 2 * s.args.len.toNat := by
  simp only [State.writePlan, stepsOf_append]
  rw [stepsOf_const (n := 1), stepsOf_const (n := 2)]
  · simp
    omega
  · simp [State.writePayloadOp, DataOp.steps]
  · simp only [List.mem_map, forall_exists_index, and_imp]
    rintro _ x _ rfl
    rfl

/-- WRITE's data accesses write only bytes of its block. -/
theorem State.writePlan_targets (s : State) :
    ∀ op ∈ s.writePlan s.xfer.w.toNat, ∀ a, op.target = some a → a ∈ s.writeTargets := by
  intro op hop a ha
  simp only [State.writePlan, List.mem_append, List.mem_map] at hop
  rcases hop with ⟨⟨b, i⟩, hi, rfl⟩ | ⟨i, hi, rfl⟩
  · simp only [State.writeHeadOp, DataOp.target, Option.some.injEq] at ha
    subst ha
    have := List.mem_zipIdx hi
    simp only [Nat.zero_le, Nat.zero_add, State.blockHead_length, true_and] at this
    refine List.mem_map.2 ⟨i, ?_, rfl⟩
    simp only [required, Config.msgHdrSize, List.mem_range]
    omega
  · simp only [State.writePayloadOp, DataOp.target, Option.some.injEq] at ha
    subst ha
    simp only [List.mem_range] at hi
    refine List.mem_map.2 ⟨_, ?_, rfl⟩
    simp only [required, List.mem_range]
    omega

/-! ### READ -/

theorem State.readPlan_ne_nil (s : State) : s.readPlan ≠ [] := by
  intro h
  have := congrArg List.length h
  simp [State.readPlan, Config.msgHdrSize] at this

/-- READ's data accesses take one step for each header byte and two for each payload byte. -/
theorem State.readPlan_steps (s : State) : stepsOf s.readPlan = 20 + 2 * s.readPayloadLen := by
  simp only [State.readPlan, stepsOf_append]
  rw [stepsOf_const (n := 1), stepsOf_const (n := 2)]
  · simp [Config.msgHdrSize]
    omega
  · simp [State.readPayloadOp, DataOp.steps]
  · simp only [List.mem_map, forall_exists_index, and_imp]
    rintro _ x _ rfl
    rfl

/-- READ's data accesses write only bytes of the destination. -/
theorem State.readPlan_targets (s : State) :
    ∀ op ∈ s.readPlan, ∀ a, op.target = some a → a ∈ s.readTargets := by
  intro op hop a ha
  simp only [State.readPlan, List.mem_append, List.mem_map] at hop
  rcases hop with ⟨i, -, rfl⟩ | ⟨i, hi, rfl⟩
  · simp [State.readHeaderOp, DataOp.target] at ha
  · simp only [State.readPayloadOp, DataOp.target, Option.some.injEq] at ha
    subst ha
    exact List.mem_map.2 ⟨_, hi, rfl⟩

/-! ### The reference copy -/

/-- RB_WRITE keeps the canonical form. -/
theorem rbWrite_wf {m : Mem} (h : Mem.wf m = true) (hdr : Nat) (g : RingView) (pos : Nat) (src : List Byte) :
    Mem.wf (rbWrite hdr g m pos src) = true := by
  induction src generalizing m pos with
  | nil => exact h
  | cons b bs ih => exact ih (Mem.wf_write8 h _ b) (pos + 1)

end Sys2Proof.Machine
end

