-- ==== Sys2Proof/Tests/Slice0.lean ====
section
/-! SUPPORT. Tests on small states, expected values from `95_test_vectors.md`, and a witness for the hypotheses of each
statement in Certificates/Slice0/Obligations.lean. -/

namespace Sys2Proof.Tests

open Sys2Proof.Machine

/-! ### States and helpers -/

/-- Parameters as `95_test_vectors.md` section 0 takes them, with a small FIFO and a port number for the OPEN ones. -/
def cfg0 : Params := { rbHdrSize := 64, negTimeout := false, mboxFifoDepth := 3, popMayFail := true, swIrqPort := 5 }

/-- Reset with those parameters. -/
def r0 : State := { State.reset with cfg := cfg0 }

/-- Rings L64 and R64 of `95_test_vectors.md` section 0. -/
def rings64 : Rings :=
  { ldesc := 0x20100007, lbase := 0x20100000, lcap := 64, rdesc := 0x20100087, rbase := 0x20100080, rcap := 64 }

/-- Id A of `95_test_vectors.md` section 0. -/
def idA : IdRegs := { w0 := 0x03020100, w1 := 0x07060504, w2 := 0x0B0A0908, w3 := 0x0F0E0D0C }

/-- The entries that give those rings. -/
def entries64 : List Entry := [⟨0xBA5E0001, 0x20100007⟩, ⟨0xBA5E0002, 0x20100087⟩, ⟨0xBA5E0003, 0⟩]

/-- A Ready state with the cursors 0, given ADDR and LEN. -/
def ready (addr len : Word) : State :=
  { r0 with
    status := { Status.atReset with isOpen := true, rv := true }
    rings := rings64
    args := { id := idA, addr := addr, len := len }
    ghost := { Ghost.start with entered := entries64 } }

/-- Ready for a WRITE. -/
def readyW : State := ready 0x00100000 5

/-- A waiting NEGOTIATE that has popped the given entries, with the given entries in the FIFO. -/
def waiting (ents inbound : List Entry) : State :=
  { r0 with
    status := { Status.atReset with isOpen := true, lopc := 4 }
    fsm := .negWait
    neg := { Neg.atReset with kind := .negotiateCmd, ents := ents }
    mbx := { Mailbox.empty with inbound := inbound }
    ghost := { Ghost.start with entered := ents ++ inbound } }

/-- A WRITE or READ in EXEC at a phase, with the cursors w and r and the pending accesses. -/
def running (cmd : XferCmd) (phase : Phase) (w r len : Word) (pos : Nat) (todo : List DataOp) : State :=
  { ready 0x00100000 5 with
    status := { Status.atReset with isOpen := true, rv := true, lopc := cmd.opc }
    fsm := .exec
    xfer := { Xfer.atReset with cmd := cmd, phase := phase, w := w, r := r, len := len, pos := pos, todo := todo } }

/-- Put turns and the host's acts into a state. -/
def withHost (ts : List Turn) (acts : List HostAct) (s : State) : State :=
  { s with env := { s.env with sched := ts, hostProg := acts } }

/-- Put turns and the partner's acts into a state. -/
def withPartner (ts : List Turn) (acts : List PartnerAct) (s : State) : State :=
  { s with env := { s.env with sched := ts, partnerProg := acts } }

/-- A field of the next state. -/
def get {α : Type} (f : State → α) (o : Host.Outcome State Fault Refusal) : Option α :=
  match o with
  | .next t => some (f t)
  | .fault _ => none
  | .refused _ => none

/-- STATUS after a CMD write at the host's turn. -/
def statusAfter (c : Word) (s : State) : Option Word :=
  get State.statusWord (step (withHost [.host] [.regWrite (Access.at32 0x00) c] s))

/-- The entries L, R and E of `95_test_vectors.md` section 2.6. -/
def entL : Entry := ⟨0xBA5E0001, 0x20100007⟩
def entR : Entry := ⟨0xBA5E0002, 0x2010008A⟩
def entE : Entry := ⟨0xBA5E0003, 0⟩

/-! ### WellFormed refuses -/

/-- A 16-bit read of STATUS is ill formed (I12 of 2.8; `10_state.md` R15). -/
theorem test_wf_refuses_size : Access.wf { size := 2, offset := 0x04 } = false := by decide
/-- A 32-bit access at offset 0x06 is ill formed (I12 of 2.8; `10_state.md` R15). -/
theorem test_wf_refuses_misaligned : Access.wf { size := 4, offset := 0x06 } = false := by decide
theorem test_wf_accepts : Access.wf (Access.at32 0x04) = true := by decide
/-- The port answers an ill-formed access with an error and does nothing (I12 of 2.8). -/
theorem test_refused_access_answers_error :
    get (fun t => (t.env.hostResp, t.args)) (step (withHost [.host] [.regWrite { size := 4, offset := 0x22 } 7] r0))
      = some (.error, r0.args) := by decide

/-! ### Decoding, words written out from `30_encoding.md` R64, R65 and R69 -/

-- bits 31:6 reserved, 5 RXIE, 4 BOTH, 3:0 OPC
theorem test_decode_open : decodeCmd (0#26 ++ 0b0#1 ++ 0b0#1 ++ 0x1#4) = .ok (.openSocket false) := by decide
theorem test_decode_open_rxie : decodeCmd (0#26 ++ 0b1#1 ++ 0b0#1 ++ 0x1#4) = .ok (.openSocket true) := by decide
theorem test_decode_close : decodeCmd (0#26 ++ 0b0#1 ++ 0b0#1 ++ 0x2#4) = .ok .close := by decide
theorem test_decode_negpend : decodeCmd (0#26 ++ 0b0#1 ++ 0b0#1 ++ 0x3#4) = .ok .negPend := by decide
theorem test_decode_negotiate : decodeCmd (0#26 ++ 0b0#1 ++ 0b0#1 ++ 0x4#4) = .ok .negotiate := by decide
theorem test_decode_reset : decodeCmd (0#26 ++ 0b0#1 ++ 0b0#1 ++ 0x5#4) = .ok (.reset false) := by decide
theorem test_decode_reset_both : decodeCmd (0#26 ++ 0b0#1 ++ 0b1#1 ++ 0x5#4) = .ok (.reset true) := by decide
theorem test_decode_write : decodeCmd (0#26 ++ 0b0#1 ++ 0b0#1 ++ 0x6#4) = .ok .write := by decide
theorem test_decode_read : decodeCmd (0#26 ++ 0b0#1 ++ 0b0#1 ++ 0x7#4) = .ok .read := by decide
theorem test_decode_local : decodeEntry ⟨0xBA5E0001, 0x20100007⟩ = .ok (.localBufferDesc 0x20100007) := by decide
theorem test_decode_remote : decodeEntry ⟨0xBA5E0002, 0x2010008A⟩ = .ok (.remoteBufferDesc 0x2010008A) := by decide
theorem test_decode_end : decodeEntry ⟨0xBA5E0003, 0xDEADBEEF⟩ = .ok (.endOfSetup 0xDEADBEEF) := by decide
/-- Reserved words are refused (E1 to E3, E6, E9 to E13 of 2.3). -/
theorem test_decode_illegal :
    ([0x00000000, 0x00000008, 0x0000000F, 0x00000011, 0x00000025, 0x00000035, 0x00000016, 0x00000041,
      0x80000007] : List Word).all (fun c => decide (decodeCmd c = .error .illegalCmd)) = true := by decide
/-- A tag is compared whole (N12 of 2.6), and a tag word is no command. -/
theorem test_decode_unknown_tag : decodeEntry ⟨0x0000BA5E, 0⟩ = .error .unknownTag ∧
    decodeCmd 0xBA5E0001 = .error .illegalCmd := by decide
/-- Table rows as the host asks for them. -/
theorem test_decode_table :
    decodeTableWord 32 0x21 = some (.openSocket true) ∧ decodeTableWord 32 0xBA5E0002 = some (.remoteBufferDesc 0) ∧
      decodeTableWord 32 0x10 = none := by decide
/-- The encoder writes the words of `30_encoding.md` R65 and R69. -/
theorem test_encode :
    encode (.openSocket true) = [0x21] ∧ encode (.reset true) = [0x15] ∧ encode .read = [7] ∧
      encode (.remoteBufferDesc 9) = [0xBA5E0002, 9] := by decide

/-! ### One step of each instruction -/

/-- E1, E2, E6 of 2.3 and E15: illegal words at BUSY = 0. -/
theorem test_illegal : statusAfter 0x00000000 r0 = some 0x00010100 ∧ statusAfter 0x00000008 r0 = some 0x00018100 ∧
    statusAfter 0x00000011 r0 = some 0x00011100 ∧ statusAfter 0x00000016 readyW = some 0x00016106 := by decide
/-- E5 of 2.3. -/
theorem test_open : statusAfter 0x00000021 r0 = some 0x00001041 := by decide
/-- C2 of 2.7. -/
theorem test_open_again : statusAfter 0x00000001 readyW = some 0x00031106 := by decide
/-- C3 and C4 of 2.7. -/
theorem test_close : statusAfter 0x00000002 { readyW with irq := ⟨true, true⟩ } = some 0x00002000 ∧
    get State.irq (exec .close { readyW with irq := ⟨true, true⟩ }) = some ⟨false, false⟩ ∧
    statusAfter 0x00000002 r0 = some 0x00022100 := by decide
/-- C8 of 2.7: CLOSE is ignored while a WRITE runs. -/
theorem test_close_exec : get (fun t => (t.fsm, t.status.ovr, t.status.isOpen))
    (exec .close (running .write .loadPeer 0 0 0 0 [])) = some (.exec, true, true) := by decide
/-- Q2 and Q4 of 2.6. -/
theorem test_negpend :
    statusAfter 3 { readyW with mbx := { Mailbox.empty with inbound := [entL, entR, entE] } } = some 0x0000300E ∧
    get (fun t => t.results.rlen) (exec .negPend { readyW with mbx := { Mailbox.empty with inbound := [entL] } })
      = some 1 ∧ statusAfter 3 r0 = some 0x00023100 := by decide
/-- N13 of 2.6. -/
theorem test_negotiate : statusAfter 4 readyW = some 0x00004043 := by decide
/-- C5 of 2.7: stale entries go, RXP stays. -/
theorem test_reset : statusAfter 0x15 { readyW with mbx := { Mailbox.empty with inbound := [entL, entR] } }
      = some 0x00005002 ∧
    get (fun t => (t.mbx.inbound, t.irq.rxp)) (exec (.reset true)
      { readyW with irq := ⟨true, true⟩, mbx := { Mailbox.empty with inbound := [entL, entR] } })
      = some ([], true) := by decide
/-- N15 and N16 of 2.6: RESET and CLOSE abort a waiting negotiation in the controller's next step. -/
theorem test_abort :
    get State.statusWord (State.controllerTurn CtlChoice.plain ((waiting [] []).requestAbort (.reset false))) = some 0x00005002 ∧
    get State.statusWord (State.controllerTurn CtlChoice.plain ((waiting [] []).requestAbort .close)) = some 0x00002000 := by
  decide
/-- N14 of 2.6: the first entry is held with NEGK = 1. -/
theorem test_local : get State.statusWord (State.controllerTurn CtlChoice.plain (waiting [] [entL])) = some 0x01004043 := by
  decide
/-- N1 of 2.6, the third entry last popped. -/
theorem test_end : get (fun t => (t.statusWord, t.rings)) (exec (.endOfSetup 0) (waiting [entL, entR] []))
    = some (0x00004006, ⟨0x20100007, 0x20100000, 64, 0x2010008A, 0x20100080, 960⟩) := by decide
/-- N10 of 2.6: the remote capacity is -32. -/
theorem test_remote : get (fun t => (t.statusWord, t.rings)) (exec (.remoteBufferDesc 0x20100005) (waiting [entL, entE] []))
    = some (0x00244302, Rings.unset) := by decide
/-- N5, N7, N9 of 2.6. -/
theorem test_negotiation_failures :
    negJudge 64 [entL, entR, ⟨0xBA5E0004, 0⟩] = .error .negUnknownTag ∧
    negJudge 64 [entL, entL, ⟨0xBA5E0004, 0⟩] = .error .negDupTag ∧
    negJudge 64 [⟨0xBA5E0001, 0x20100006⟩, ⟨0xBA5E0002, 0x20100005⟩, entE] = .error .negBadLocalCap := by decide
/-- W8 to W12 of 2.4, with the rings that the vectors name. -/
theorem test_write_checks :
    statusAfter 6 (ready 0x00100000 1041) = some 0x00076106 ∧ statusAfter 6 (ready 0x00100000 0) = some 0x00066106 ∧
    statusAfter 6 (ready 0 0) = some 0x00056106 ∧ statusAfter 6 r0 = some 0x00026100 := by decide
/-- W13 of 2.4, and STATUS while in EXEC (P1 of section 3). -/
theorem test_write : statusAfter 6 { ready 0 5 with status := { readyW.status with hwf := true } } = some 0x00316416 ∧
    statusAfter 6 readyW = some 0x00006087 := by decide
/-- R15 of 2.5, and N17 of 2.6: READ is ignored in NEG_WAIT. -/
theorem test_read : statusAfter 7 (ready 0 64) = some 0x00057106 ∧ statusAfter 7 (waiting [] []) = some 0x00004063 := by
  decide
/-- R12 of 2.5: a remote.writeIndex that is not below the capacity. -/
theorem test_read_cursor : get State.statusWord (State.controllerTurn CtlChoice.plain (running .read .loadOwn 72 0 0 0 []))
    = some 0x00307416 := by decide

/-- `20_memory.md` R53: the acquire read of a cursor, whose second byte races, is a cursor access with that byte marked. -/
theorem test_race : get (fun t => t.ghost.trace.map fun e => (e.kind, e.cursor, e.bytes.map fun b => b.mark.race))
      (State.controllerTurn { CtlChoice.plain with race := 0b0010 } (running .read .loadPeer 0 0 0 0 []))
    = some [(.acqRead, true, [false, true, false, false])] := by decide

/-- `20_memory.md` R47: with ADDR inside the padding of the local header, the source bytes there are marked as overlapped,
one past the ring is not. -/
theorem test_overlap : ((ready 0x20100040 5).overlapped (ready 0x20100040 5).localRing 0x20100044 = true) ∧
    ((ready 0x20100010 5).overlapped (ready 0x20100010 5).localRing 0x20100010 = true) ∧
    ((ready 0x2010007F 5).overlapped (ready 0x2010007F 5).localRing 0x20100080 = false) := by decide

/-- `20_memory.md` R49: the partner's release write is one only at a cursor word. -/
theorem test_release : (withPartner [] [.storeRel 0x20100004 16 0] readyW).partnerTurn.ghost.trace.map
      (fun e => (e.kind, e.cursor)) = [(.relWrite, true)] ∧
    (withPartner [] [.storeRel 0x20100005 16 0] readyW).partnerTurn.ghost.trace.map (fun e => (e.kind, e.cursor))
      = [(.plainWrite, false)] := by decide

/-- `70_reset_and_hazards.md` R176 and `20_memory.md` R49: a ring's cursors are cursor words before the partner pushes its
entry, and after CLOSE; without any entry there are none. -/
theorem test_cursors_without_rv :
    (withPartner [] [.storeRel 0x20100004 0 0, .push entL] r0).partnerTurn.ghost.trace.map
      (fun e => (e.kind, e.cursor)) = [(.relWrite, true)] ∧
    get (fun t => (withPartner [] [.loadAcq 0x20100080 0] t).partnerTurn.ghost.trace.map fun e => (e.kind, e.cursor))
      (exec .close readyW) = some [(.acqRead, true)] ∧
    (withPartner [] [.storeRel 0x20100004 0 0] r0).partnerTurn.ghost.trace.map (fun e => (e.kind, e.cursor))
      = [(.plainWrite, false)] := by decide

/-- `20_memory.md` R49: the host's 32-bit read of a cursor word is a cursor access, and is answered with the word. -/
theorem test_host_acquire : get (fun t => (t.env.hostResp, t.ghost.trace.map fun e => (e.agent, e.kind, e.cursor)))
      (withHost [] [.loadAcq 0x20100080 0] { readyW with mem := [(0x20100080, 0x30)] }).hostTurn
    = some (.data 0x30, [(.host, .acqRead, true)]) := by decide

/-- `20_memory.md` R52: a push and the pop that returns its entry have one number. -/
theorem test_push_and_pop_number :
    ((withPartner [] [.push entR] (waiting [entL] [])).partnerTurn.ghost.trace.map Event.kind = [.push 1]) ∧
    get (fun t => t.ghost.trace.map Event.kind)
      (State.controllerTurn CtlChoice.plain (withPartner [] [.push entR] (waiting [entL] [])).partnerTurn)
      = some [.pop 1, .push 1] := by decide

/-- `45_session.md` R148, seen from the other side: a second IRBC's RESET with BOTH empties the FIFO this one pops. -/
theorem test_partner_clear : (withPartner [] [.clear true] (waiting [] [entL])).partnerTurn.mbx.inbound = [] ∧
    (withPartner [] [.clear false] (waiting [] [entL])).partnerTurn.mbx.inbound = [entL] := by decide

/-- `10_state.md` R27: cmdWord after accepted commands, and after one that is rejected. -/
theorem test_cmdWord : get (fun t => t.neg.cmdWord) (exec .negPend readyW) = some 3 ∧
    get (fun t => t.neg.cmdWord) (exec (.reset true) readyW) = some 0x15 ∧
    get (fun t => t.neg.cmdWord) (exec .write (ready 0 5)) = some 0 := by decide

/-! ### Primitives -/

/-- D1, D6, D8, D9 of 2.1. -/
theorem test_desc : descParse 64 0x20100007 = ⟨0x20100007, 0x20100000, 64⟩ ∧ (descParse 64 0x20100005).cap = -32 ∧
    (descParse 64 0x0000001F).cap = 2147483584 ∧ descParse 64 0xFFFFFFEC = ⟨0xFFFFFFEC, 0xFFFFFFE0, 4032⟩ ∧
    RingView.dataAddr ⟨0xFFFFFFE0, 4032⟩ 64 0 = 0x00000020 := by decide
/-- The ALIGN_POS table of 2.2. -/
theorem test_align_pos : [0, 1, 16, 29, 32, 33, 48, 49, 63].map (alignPos · 64) = [0, 16, 16, 32, 32, 48, 48, 0, 0] := by
  decide
/-- The FREE_SPACE and AVAIL_DATA table of 2.2. -/
theorem test_space : [(0, 0), (48, 0), (0, 16), (16, 48), (48, 16), (32, 32)].map
    (fun p : Nat × Nat => (freeSpace p.1 p.2 64, availData p.2 p.1 64))
    = [(64, 0), (16, 48), (16, 48), (32, 32), (32, 32), (64, 0)] := by decide
/-- P1 and P4 of 2.2. -/
theorem test_ring_copy :
    rbRead 0 ⟨0, 64⟩ (rbWrite 0 ⟨0, 64⟩ [] 60 [1, 2, 3, 4, 5, 6]) 62 3 = [3, 4, 5] ∧
    rbWrite 0 ⟨0, 64⟩ [] 60 [1, 2, 3, 4, 5, 6] = [(0, 5), (1, 6), (60, 1), (61, 2), (62, 3), (63, 4)] ∧
    RingView.advance ⟨0, 64⟩ 60 6 = 2 := by decide
/-- W1 of 2.4: the first 24 bytes of the block. -/
theorem test_block_head : readyW.blockHead = [0x19, 0, 0, 0, 0, 1, 2, 3, 4, 5, 6, 7, 8, 9, 10, 11, 12, 13, 14, 15,
    0, 0, 0, 0] := by decide
/-- R2 of 2.5: sender id bytes 10..1F gather into RID0..RID3. -/
theorem test_id_bytes : (List.range 16).foldl (fun r k => r.setByte k (BitVec.ofNat 8 (16 + k))) IdRegs.zero
    = ⟨0x13121110, 0x17161514, 0x1B1A1918, 0x1F1E1D1C⟩ := by decide
/-- I1 to I3 and I7 of 2.8. -/
theorem test_interrupts : ({ readyW with irq := ⟨true, false⟩ } : State).partnerEvent.irqLine = true ∧
    readyW.partnerEvent.irq = ⟨false, true⟩ ∧ r0.partnerEvent.irq = ⟨false, false⟩ ∧
    get State.irqLine (State.writeOffset 0x0C 1 { readyW with irq := ⟨true, true⟩ }) = some false := by decide
/-- I13 of 2.8. -/
theorem test_params : r0.readOffset 0x58 = 0x14100040 ∧ r0.readOffset 0x5C = 0x00000410 := by decide
/-- `30_encoding.md` R79, and R78's triples. -/
theorem test_pseudo : Pseudo.expand (.openP true) = [.regWrite ⟨4, 0x00⟩ 0x21, .poll ⟨4, 0x04⟩ 1 0] ∧
    (Pseudo.expand (.readP 9 8)).map (hostTriple 0) = [some ⟨.w, 0x20, 9⟩, some ⟨.w, 0x24, 8⟩, some ⟨.w, 0, 7⟩,
      some ⟨.r, 4, 0⟩, some ⟨.r, 0x28, 0⟩, some ⟨.r, 0x2C, 0⟩, some ⟨.r, 0x30, 0⟩, some ⟨.r, 0x34, 0⟩,
      some ⟨.r, 0x38, 0⟩] := by decide

/-! ### Where an instruction is fetched -/

/-- The step after `withFetchWord` runs a command and a tag. -/
theorem test_fetch_command : get State.statusWord (step (r0.withFetchWord 32 0x00000006)) = some 0x00026100 := by decide
theorem test_fetch_tag : get (fun t => t.neg.ents) (step (r0.withFetchWord 32 0xBA5E0002)) = some [⟨0xBA5E0002, 0⟩] := by
  decide

/-! ### States that meet the invariant -/

/-- A waiting OPEN that has popped the given entries, with the given entries in the FIFO. -/
def opening (ents inbound : List Entry) : State :=
  { r0 with
    status := { Status.atReset with lopc := 1 }
    fsm := .negWait
    neg := { Neg.atReset with kind := .openCmd, ents := ents, cmdWord := 0x21 }
    mbx := { Mailbox.empty with inbound := inbound }
    ghost := { Ghost.start with entered := ents ++ inbound } }

theorem cfg0_valid : cfg0.Valid := by constructor <;> decide

theorem ringL_ok : RingRegsOk 64 0x20100007 0x20100000 64 := by constructor <;> decide

theorem ringR_ok : RingRegsOk 64 0x20100087 0x20100080 64 := by constructor <;> decide

theorem ready_inv (addr len : Word) : MachineInv (ready addr len) where
  cfg := cfg0_valid
  socket := by
    constructor <;> simp [ready, r0, State.reset, Status.atReset, Irq.atReset, Neg.atReset, Detail.kind, rings64, cfg0]
    exacts [ringL_ok, ringR_ok]
  lopc := by constructor <;> simp [ready, r0, State.reset]
  xfer := XferInv.of_not_exec (by simp [ready, r0, State.reset])
  fifo := by simp [FifoInv, ready, r0, State.reset, Mailbox.empty]
  mem := rfl

theorem faulted_inv : MachineInv { readyW with status := { readyW.status with hwf := true } } where
  cfg := cfg0_valid
  socket := by
    constructor <;> simp [readyW, ready, r0, State.reset, Status.atReset, Irq.atReset, Neg.atReset, Detail.kind,
      rings64, cfg0]
    exacts [ringL_ok, ringR_ok]
  lopc := by constructor <;> simp [readyW, ready, r0, State.reset]
  xfer := XferInv.of_not_exec (by simp [readyW, ready, r0, State.reset])
  fifo := by simp [FifoInv, readyW, ready, r0, State.reset, Mailbox.empty]
  mem := rfl

theorem waiting_inv (ents inbound : List Entry) (h : ents.length < 3) (hi : inbound.length ≤ 3) :
    MachineInv (waiting ents inbound) where
  cfg := cfg0_valid
  socket := by
    constructor <;> simp [waiting, r0, State.reset, Status.atReset, Irq.atReset, Neg.atReset, Detail.kind,
      Config.negEntries, h]
  lopc := by constructor <;> simp [waiting, r0, NegKind.opc]
  xfer := XferInv.of_not_exec (by simp [waiting])
  fifo := hi
  mem := rfl

theorem opening_inv (ents inbound : List Entry) (h : ents.length < 3) (hi : inbound.length ≤ 3) :
    MachineInv (opening ents inbound) where
  cfg := cfg0_valid
  socket := by
    constructor <;> simp [opening, r0, State.reset, Status.atReset, Irq.atReset, Neg.atReset, Detail.kind,
      Config.negEntries, h]
  lopc := by constructor <;> simp [opening, r0, NegKind.opc]
  xfer := XferInv.of_not_exec (by simp [opening])
  fifo := hi
  mem := rfl

theorem running_inv {c : XferCmd} {p : Phase} {w r len : Word} {pos : Nat} {todo : List DataOp}
    (h : XferInv (running c p w r len pos todo)) : MachineInv (running c p w r len pos todo) where
  cfg := cfg0_valid
  socket := by
    constructor <;> simp [running, ready, r0, State.reset, Status.atReset, Irq.atReset, Neg.atReset, Detail.kind,
      rings64, cfg0]
    exacts [ringL_ok, ringR_ok]
  lopc := by constructor <;> simp [running]
  xfer := h
  fifo := by simp [FifoInv, running, ready, r0, State.reset, Mailbox.empty]
  mem := rfl

/-- A WRITE and a READ about to load the partner's cursor. -/
theorem running_start_inv (c : XferCmd) : MachineInv (running c .loadPeer 0 0 0 0 []) := by
  cases c
  · exact running_inv fun _ => ⟨by decide, ⟨by decide, by decide, by decide, by simp [running]⟩, by decide⟩
  · exact running_inv fun _ => ⟨by decide, ⟨by simp [running], by simp [running]⟩, by decide⟩

/-- A WRITE of 5 bytes at a cursor 0 with its last data access pending, and one about to publish. -/
def writeData : State := running .write .data 0 0 0 29 [.put 0x20100040 0x19 false]
def writePublish : State := running .write .publish 0 0 0 29 []

theorem writeData_inv : MachineInv writeData := by
  refine running_inv fun _ => ⟨by decide, ⟨by decide, by decide, by decide, fun _ => ?_⟩, by decide⟩
  refine ⟨by decide, by decide, by decide, by decide, by decide, by decide, ?_, by decide⟩
  intro op hop a ha
  simp only [running, List.mem_singleton] at hop
  subst hop
  cases ha
  decide

theorem writePublish_inv : MachineInv writePublish := by
  refine running_inv fun _ => ⟨by decide, ⟨by decide, by decide, by decide, fun _ => ?_⟩, by decide⟩
  exact ⟨by decide, by decide, by decide, by decide, by decide, by decide, nofun, by decide⟩

/-- A READ of a block of 5 payload bytes at a cursor 0 about to write its last byte, and one about to signal. -/
def readData : State := running .read .data 32 0 25 29 [.put 0x00100004 0x6F false]
def readSignal : State := running .read .signal 32 0 25 29 []

theorem readData_inv : MachineInv readData := by
  refine running_inv fun _ => ⟨by decide, ⟨by simp [running], fun _ => ?_⟩, by decide⟩
  refine ⟨⟨by decide, by decide, by decide⟩, by decide, by decide, by decide, by decide, ?_, by decide⟩
  intro op hop a ha
  simp only [running, List.mem_singleton] at hop
  subst hop
  cases ha
  decide

theorem readSignal_inv : MachineInv readSignal := by
  refine running_inv fun _ => ⟨by decide, ⟨by simp [running], fun _ => ?_⟩, by decide⟩
  exact ⟨⟨by decide, by decide, by decide⟩, by decide, by decide, by decide, by decide, nofun, by decide⟩

/-- An empty trace is ordered. -/
theorem ready_trace (addr len : Word) : TraceInv (ready addr len) :=
  ⟨nofun, List.Pairwise.nil, nofun, nofun, nofun,
    ⟨List.nil_suffix, ⟨entries64, trivial, by simp [pushed, ready, r0, Ghost.start]⟩, nofun, nofun,
      fun _ => (by decide : (0x20100000 : Word) ∈ entries64.flatMap Entry.ringBases ∧
        (0x20100080 : Word) ∈ entries64.flatMap Entry.ringBases)⟩⟩

theorem opening_trace (ents inbound : List Entry) : TraceInv (opening ents inbound) :=
  ⟨nofun, List.Pairwise.nil, nofun, nofun, nofun,
    ⟨List.suffix_append _ _, ⟨ents ++ inbound, trivial, by simp [pushed, opening, r0, Ghost.start]⟩, nofun,
      fun _ h => List.mem_append_left _ h, nofun⟩⟩

/-! ### A witness for the hypotheses of each statement -/

/-- The next state, for a witness about a next state. -/
def nextOf (o : Host.Outcome State Fault Refusal) (d : State) : State :=
  match o with
  | .next t => t
  | .fault _ => d
  | .refused _ => d

/-- The error-free choice, a bus error, and a failed pop. -/
def clean : CtlChoice := CtlChoice.plain
def badBus : CtlChoice := { CtlChoice.plain with busError := true }
def badPop : CtlChoice := { CtlChoice.plain with popErr := true }

/-- A choice in which every byte of the access races. -/
def racing : CtlChoice := { CtlChoice.plain with race := 15 }

/-- The waiting negotiation's controller turn. -/
def popTurn (s : State) : State := { s with env := { s.env with sched := [.controller clean] } }

theorem witness_OpcodeMapMatchesExactly :
    (cmdTable.get ⟨0, by decide⟩).accepts 0x21 = true ∧ (cmdTable.get ⟨6, by decide⟩).accepts 7 = true := by decide

theorem witness_IllegalCommandWords :
    decodeCmd 0x41 = .error .illegalCmd ∧ r0.fsm = .idle ∧ (waiting [] []).fsm ≠ .idle := by decide

theorem witness_TagsComparedWhole :
    (0xBA5E0004 : Word) ≠ 0xBA5E0001 ∧ (0xBA5E0004 : Word) ≠ 0xBA5E0002 ∧ (0xBA5E0004 : Word) ≠ 0xBA5E0003 := by decide

theorem witness_StepRunsTheWrittenCommand :
    (withHost [.host] [.regWrite ⟨4, 0x00⟩ 6] readyW).env.sched = [.host] ∧
    (withHost [.host] [.regWrite ⟨4, 0x00⟩ 6] readyW).env.hostProg = [.regWrite ⟨4, 0x00⟩ 6] ∧
    decodeCmd 6 = .ok .write := by decide

theorem witness_StepRunsThePoppedEntry :
    (popTurn (waiting [] [entL])).env.sched = [.controller clean] ∧ (popTurn (waiting [] [entL])).fsm = .negWait ∧
    (popTurn (waiting [] [entL])).neg.abortReq = false ∧ (popTurn (waiting [] [entL])).neg.timeoutEv = false ∧
    (popTurn (waiting [] [entL])).mbx.inbound = [entL] ∧
    (clean.popErr && (popTurn (waiting [] [entL])).cfg.popMayFail) = false ∧
    decodeEntry entL = .ok (.localBufferDesc 0x20100007) := by decide

theorem witness_OpenStartsNegotiation :
    (r0.fsm = .idle ∧ r0.status.isOpen = false) ∧ readyW.fsm = .idle ∧ readyW.status.isOpen = true := by decide

theorem witness_CloseClearsTheSocket : readyW.fsm = .idle ∧ readyW.status.isOpen = true := by decide
theorem witness_ResetForcesRenegotiation : readyW.fsm = .idle ∧ readyW.status.isOpen = true := by decide
theorem witness_NegpendReportsThePendingRequest : readyW.fsm = .idle ∧ readyW.status.isOpen = true := by decide
theorem witness_NegotiateStartsWaiting : readyW.fsm = .idle ∧ readyW.status.isOpen = true := by decide
theorem witness_ClosedSocketRejectsCommands : r0.fsm = .idle ∧ r0.status.isOpen = false := by decide

theorem witness_BusyControllerIgnoresCommands :
    (running .write .loadPeer 0 0 0 0 []).fsm ≠ .idle ∧ (running .write .loadPeer 0 0 0 0 []).fsm ≠ .negWait ∧
    decodeCmd 2 = .ok .close ∧ (waiting [] []).fsm = .negWait ∧ decodeCmd 7 = .ok .read ∧
    (Instr.read ≠ .close ∧ ∀ both, Instr.read ≠ .reset both) := by decide

theorem witness_AbortEndsTheNegotiation :
    ((waiting [] []).requestAbort .close).fsm = .negWait ∧ ((waiting [] []).requestAbort .close).neg.abortReq = true ∧
    ((waiting [] []).requestAbort .close).neg.abortCmd = 0x00000002 ∧
    ((opening [] []).requestAbort (.reset true)).fsm = .negWait ∧ ((opening [] []).requestAbort (.reset true)).neg.abortReq = true ∧
    ((opening [] []).requestAbort (.reset true)).neg.abortCmd = firstWord (.reset true) := by decide

theorem witness_EarlyEntriesAreRecorded :
    (waiting [entL] []).fsm = .negWait ∧ (waiting [entL] []).neg.ents.length < 2 := by decide

theorem witness_ThirdGoodEntryStoresTheRings :
    (opening [entR, entE] []).fsm = .negWait ∧ (opening [entR, entE] []).neg.ents.length = 2 ∧
    decodeEntry entL = .ok (.localBufferDesc 0x20100007) ∧
    ((opening [entR, entE] []).neg.ents ++ [entL]).Perm
      [⟨0xBA5E0001, 0x20100007⟩, ⟨0xBA5E0002, 0x2010008A⟩, ⟨0xBA5E0003, 0⟩] ∧
    (opening [entR, entE] []).cfg.rbHdrSize < 2 ^ ((0x20100007 : Word).toNat % 32) ∧
    (opening [entR, entE] []).cfg.rbHdrSize < 2 ^ ((0x2010008A : Word).toNat % 32) := by decide

theorem witness_ThirdBadEntryFailsTheNegotiation :
    (waiting [entL, entL] []).fsm = .negWait ∧ (waiting [entL, entL] []).neg.ents.length = 2 ∧
    decodeEntry entE = .ok (.endOfSetup 0) ∧
    negJudge (waiting [entL, entL] []).cfg.rbHdrSize ((waiting [entL, entL] []).neg.ents ++ [entE])
      = .error .negDupTag := by decide

theorem witness_NegotiationFailureOrder :
    (([entL, entE].map Entry.cmd).Nodup ∧ (∀ b ∈ [entL, entE], b.cmd ∈ [tagLocal, tagRemote, tagEnd]) ∧
      (0xBA5E0004 : Word) ∉ [tagLocal, tagRemote, tagEnd] ∧ entL.cmd ∈ [entL, entE].map Entry.cmd) ∧
    ([entE, ⟨tagLocal, 0x20100006⟩, entR].Perm [⟨tagLocal, 0x20100006⟩, ⟨tagRemote, 0x2010008A⟩, ⟨tagEnd, 0⟩] ∧
      2 ^ ((0x20100006 : Word).toNat % 32) ≤ 64) ∧
    [⟨tagRemote, 0x20100086⟩, entL, entE].Perm [⟨tagLocal, 0x20100007⟩, ⟨tagRemote, 0x20100086⟩, ⟨tagEnd, 0⟩] ∧
      64 < 2 ^ ((0x20100007 : Word).toNat % 32) ∧ 2 ^ ((0x20100086 : Word).toNat % 32) ≤ 64 := by decide

theorem witness_UnknownTagIsConsumed :
    (waiting [] [⟨4, 0⟩]).fsm = .negWait ∧ (waiting [] [⟨4, 0⟩]).neg.abortReq = false ∧
    (waiting [] [⟨4, 0⟩]).neg.timeoutEv = false ∧ (waiting [] [⟨4, 0⟩]).mbx.inbound = [⟨4, 0⟩] ∧
    (clean.popErr && (waiting [] [⟨4, 0⟩]).cfg.popMayFail) = false ∧ decodeEntry ⟨4, 0⟩ = .error .unknownTag ∧
    (waiting [entL] [⟨4, 0⟩]).neg.ents.length < 2 ∧ (waiting [entL, entR] [⟨4, 0⟩]).neg.ents.length = 2 := by decide

/-- NEG_TIMEOUT enabled, with the controller held. -/
def timed : State := { waiting [] [] with cfg := { cfg0 with negTimeout := true } }

/-- The hold, and a pending timeout with an entry that has arrived since. -/
theorem witness_WaitingControllerHolds :
    ((waiting [] []).fsm = .negWait ∧ (waiting [] []).neg.abortReq = false ∧ (waiting [] []).neg.timeoutEv = false ∧
      (waiting [] []).mbx.inbound = []) ∧
    timed.timeoutEvent.fsm = .negWait ∧ timed.timeoutEvent.neg.abortReq = false ∧
      timed.timeoutEvent.neg.timeoutEv = true := by decide

theorem witness_FailedPopEndsTheNegotiation :
    (waiting [] [entL]).fsm = .negWait ∧ (waiting [] [entL]).neg.abortReq = false ∧
    (waiting [] [entL]).neg.timeoutEv = false ∧ (waiting [] [entL]).mbx.inbound ≠ [] ∧ badPop.popErr = true ∧
    (waiting [] [entL]).cfg.popMayFail = true := by decide

/-- The least valid ring, of capacity 16. -/
theorem witness_DescriptorParsesExactly : 16 % 16 = 0 ∧ 16 ≤ 16 ∧ 0 < (descParse 16 0x20100005).cap := by decide

theorem witness_AlignPosRoundsUpAndWraps : 63 < 64 ∧ 64 % 16 = 0 := by decide

theorem witness_FreeAndAvailableMakeUpTheRing :
    63 < 64 ∧ 0 < 64 ∧ 64 % 16 = 0 ∧ cursorOK 48 64 = true ∧ cursorOK 0 64 = true := by decide

/-- W2 of 2.4: exactly enough space. -/
theorem witness_WriteNeverFillsTheRing :
    64 % 16 = 0 ∧ 64 ≤ 2 ^ 31 ∧ cursorOK 0 64 = true ∧ 24 + 24 + 16 ≤ freeSpace (0 : Word).toNat (0 : Word).toNat 64 := by
  decide

/-- R9 of 2.5: exactly the available data. -/
theorem witness_ReadNeverPassesTheWriter :
    64 % 16 = 0 ∧ 64 ≤ 2 ^ 31 ∧ cursorOK 32 64 = true ∧ cursorOK 0 64 = true ∧
    4 + 28 ≤ availData (0 : Word).toNat (32 : Word).toNat 64 := by decide

theorem witness_CrossingCopyIsTwoRuns :
    60 < (RingView.mk 0 64).cap ∧ [1, 2, 3, (4 : Byte)].length ≤ (RingView.mk 0 64).cap - 60 ∧
    [1, 2, 3, (4 : Byte)].length = (RingView.mk 0 64).cap - 60 ∧
    [5, (6 : Byte)].length ≤ 60 := by decide

theorem witness_RingCopyRoundTrips :
    Mem.wf [] = true ∧ [1, 2, 3, (4 : Byte)].length ≤ (RingView.mk 0xFFFFFFE0 4).cap ∧
    (RingView.mk 0xFFFFFFE0 4).cap ≤ 2 ^ 32 := by decide

/-- Every clause, LEN at 0, 1, 1040 and 1041. -/
theorem witness_WriteChecksInOrder :
    (readyW.fsm = .idle ∧ readyW.status.isOpen = true ∧ readyW.status.rv = true ∧ readyW.status.hwf = false) ∧
    (State.reset.fsm = .idle ∧ State.reset.status.isOpen = false) ∧
    ({ readyW with status := { readyW.status with rv := false } } : State).status.rv = false ∧
    ({ readyW with status := { readyW.status with hwf := true } } : State).status.hwf = true ∧
    (ready 0 5).args.addr = 0 ∧ ((ready 4 0).args.addr ≠ 0 ∧ (ready 4 0).args.len = 0) ∧
    ((ready 4 1041).args.addr ≠ 0 ∧ 1040 < (ready 4 1041).args.len.toNat) ∧
    (0 < (ready 4 1).args.len.toNat ∧ (ready 4 1040).args.len.toNat ≤ 1040) := by decide

/-- Each of the two loads, with a source buffer that has no byte of the cursor, and a running WRITE of the invariant. -/
theorem witness_WriteTestsCursorsAndSpace :
    (MachineInv (running .write .loadPeer 0 0 0 0 []) ∧ MachineInv writeData ∧ writeData.fsm = .exec ∧
      writeData.xfer.cmd = .write) ∧
    ((running .write .loadPeer 0 0 0 0 []).fsm = .exec ∧ (running .write .loadPeer 0 0 0 0 []).xfer.cmd = .write ∧
      (running .write .loadPeer 0 0 0 0 []).xfer.phase = .loadPeer ∧
      ∀ k < 4, inRun 0x00100000 5 (0x20100000 + 4 + BitVec.ofNat 32 k) = false) ∧
    ((running .write .loadOwn 0 0 0 0 []).fsm = .exec ∧ (running .write .loadOwn 0 0 0 0 []).xfer.cmd = .write ∧
      (running .write .loadOwn 0 0 0 0 []).xfer.phase = .loadOwn ∧
      ∀ k < 4, inRun 0x00100000 5 (0x20100000 + BitVec.ofNat 32 k) = false) ∧
    clean.busError = false ∧ clean.race = 0 :=
  ⟨⟨running_start_inv .write, writeData_inv, by decide⟩, by decide⟩

/-- W2 of 2.4 cut to one byte, in an empty ring: no byte of the source is a byte of the local ring or its header. -/
theorem witness_WriteDeliversTheBlock :
    MachineInv (ready 0x00100000 1) ∧
    ((ready 0x00100000 1).fsm = .idle ∧ (ready 0x00100000 1).status.isOpen = true ∧
      (ready 0x00100000 1).status.rv = true ∧ (ready 0x00100000 1).status.hwf = false ∧
      (ready 0x00100000 1).args.addr ≠ 0 ∧ 0 < (ready 0x00100000 1).args.len.toNat ∧
      (ready 0x00100000 1).args.len.toNat ≤ 1040) ∧
    (cursorOK ((ready 0x00100000 1).mem.read32 0x20100004) 64 = true ∧
      cursorOK ((ready 0x00100000 1).mem.read32 0x20100000) 64 = true ∧
      24 + 1 + 16 ≤ freeSpace ((ready 0x00100000 1).mem.read32 0x20100000).toNat
        ((ready 0x00100000 1).mem.read32 0x20100004).toNat 64) ∧
    (∀ i < 1, ∀ k < 64 + 64, (0x00100000 : Word) + BitVec.ofNat 32 i ≠ 0x20100000 + BitVec.ofNat 32 k) ∧
    (∀ c ∈ List.replicate 30 clean, c.clean) ∧ (List.replicate 30 clean).length = 28 + 2 * 1 :=
  ⟨ready_inv _ _, by decide, by decide, by decide,
    fun c hc => by rw [(List.mem_replicate.1 hc).2]; exact ⟨rfl, rfl, rfl⟩, by decide⟩

theorem witness_ReadChecksInOrder :
    (readyW.fsm = .idle ∧ readyW.status.isOpen = true ∧ readyW.status.rv = true ∧ readyW.status.hwf = false) ∧
    (State.reset.fsm = .idle ∧ State.reset.status.isOpen = false) ∧
    ({ readyW with status := { readyW.status with rv := false } } : State).status.rv = false ∧
    ({ readyW with status := { readyW.status with hwf := true } } : State).status.hwf = true ∧
    (ready 0 64).args.addr = 0 ∧ (ready 1 0).args.addr ≠ 0 := by decide

theorem witness_ReadTestsCursorsAndEmptiness :
    (MachineInv (running .read .loadPeer 0 0 0 0 []) ∧ MachineInv readData ∧ readData.fsm = .exec ∧
      readData.xfer.cmd = .read) ∧
    ((running .read .loadPeer 0 0 0 0 []).fsm = .exec ∧ (running .read .loadPeer 0 0 0 0 []).xfer.cmd = .read ∧
      (running .read .loadPeer 0 0 0 0 []).xfer.phase = .loadPeer ∧
      ∀ k < 4, inRun 0x00100000 5 (0x20100080 + BitVec.ofNat 32 k) = false) ∧
    ((running .read .loadOwn 0 0 0 0 []).fsm = .exec ∧ (running .read .loadOwn 0 0 0 0 []).xfer.cmd = .read ∧
      (running .read .loadOwn 0 0 0 0 []).xfer.phase = .loadOwn ∧
      (running .read .loadOwn 0 0 0 0 []).rings.rcap.toNat % 16 = 0 ∧
      ∀ k < 4, inRun 0x00100000 5 (0x20100080 + 4 + BitVec.ofNat 32 k) = false) ∧
    clean.busError = false ∧ clean.race = 0 :=
  ⟨⟨running_start_inv .read, readData_inv, by decide⟩, by decide⟩

theorem witness_ReadTestsTheLengthField :
    (running .read .loadLen 32 0 0 0 []).fsm = .exec ∧ (running .read .loadLen 32 0 0 0 []).xfer.cmd = .read ∧
    (running .read .loadLen 32 0 0 0 []).xfer.phase = .loadLen ∧ clean.busError = false ∧ clean.race = 0 ∧
    ∀ k < 4, inRun 0x00100000 5 (addr32 ((0x20100080 : Word).toNat + 64 + 0) + BitVec.ofNat 32 k) = false := by decide

/-- R6 of 2.5 with one payload byte: L = 21 at ring position 0, remote.writeIndex 32, LEN 1. -/
def readyR : State :=
  { ready 0x00200000 1 with mem := [(0x20100080, 32), (0x201000C0, 21), (0x201000D8, 0x68)] }

theorem witness_ReadDeliversTheMessage :
    MachineInv readyR ∧
    (readyR.fsm = .idle ∧ readyR.status.isOpen = true ∧ readyR.status.rv = true ∧ readyR.status.hwf = false ∧
      readyR.args.addr ≠ 0) ∧
    (cursorOK (readyR.mem.read32 0x20100084) 64 = true ∧ cursorOK (readyR.mem.read32 0x20100080) 64 = true ∧
      (readyR.mem.read32 (readyR.remoteRing.dataAddr 64 0)).toNat = 21 ∧
      21 + 4 ≤ availData (readyR.mem.read32 0x20100084).toNat (readyR.mem.read32 0x20100080).toNat 64 ∧
      20 ≤ 21 ∧ 21 - 20 ≤ readyR.args.len.toNat) ∧
    (∀ i < 1, ∀ k < 64 + 64, readyR.args.addr + BitVec.ofNat 32 i ≠ readyR.rings.rbase + BitVec.ofNat 32 k) ∧
    (∀ c ∈ List.replicate 27 clean, c.clean) ∧ (List.replicate 27 clean).length = 25 + 2 * 1 :=
  ⟨(ready_inv 0x00200000 1).frame Env.empty _ Results.atReset Mailbox.empty _ false (by decide) (by decide),
    by decide, by decide, by decide,
    fun c hc => by rw [(List.mem_replicate.1 hc).2]; exact ⟨rfl, rfl, rfl⟩, by decide⟩

/-- A data access and a publish that fail. -/
theorem witness_BusErrorStopsTheTransfer :
    (MachineInv writeData ∧ writeData.fsm = .exec ∧ writeData.xfer.phase ≠ .signal ∧ writeData.xfer.phase ≠ .publish) ∧
    (MachineInv writePublish ∧ writePublish.fsm = .exec ∧ writePublish.xfer.phase = .publish) ∧
    badBus.busError = true :=
  ⟨⟨writeData_inv, by decide⟩, ⟨writePublish_inv, by decide⟩, rfl⟩

theorem witness_TransfersComplete :
    (MachineInv (running .write .loadPeer 0 0 0 0 []) ∧ (running .write .loadPeer 0 0 0 0 []).fsm = .exec ∧
      28 + 2 * (running .write .loadPeer 0 0 0 0 []).args.len.toNat ≤ (List.replicate 38 badPop).length) ∧
    MachineInv (running .read .loadPeer 0 0 0 0 []) ∧ (running .read .loadPeer 0 0 0 0 []).fsm = .exec ∧
      25 + 2 * (running .read .loadPeer 0 0 0 0 []).rings.rcap.toNat ≤ (List.replicate 153 clean).length :=
  ⟨⟨running_start_inv .write, rfl, by rw [List.length_replicate]; decide⟩, running_start_inv .read, rfl,
    by rw [List.length_replicate]; decide⟩

/-- A data access of WRITE that races, one of READ, a step that ends a READ and a step outside EXEC, with an address outside
the command's bytes. -/
theorem witness_ControllerWritesOnlyItsOwnBytes :
    (MachineInv writeData ∧ writeData.controllerTurn racing = .next (nextOf (writeData.controllerTurn racing) r0) ∧
      (nextOf (writeData.controllerTurn racing) r0).fsm = .exec ∧ writeData.fsm = .exec ∧ writeData.xfer.cmd = .write ∧
      (∀ k < 24 + writeData.args.len.toNat,
        (0x2010005D : Word) ≠ writeData.localRing.byteAddr writeData.cfg.rbHdrSize writeData.xfer.w.toNat k) ∧
      ∀ k < 4, (0x2010005D : Word) ≠ writeData.rings.lbase + BitVec.ofNat 32 k) ∧
    (MachineInv readData ∧ readData.controllerTurn clean = .next (nextOf (readData.controllerTurn clean) r0) ∧
      readData.fsm = .exec ∧ readData.xfer.cmd = .read ∧
      (∀ i < readData.xfer.len.toNat - 20, (0x00100005 : Word) ≠ readData.args.addr + BitVec.ofNat 32 i) ∧
      ∀ k < 4, (0x00100005 : Word) ≠ readData.rings.rbase + 4 + BitVec.ofNat 32 k) ∧
    (MachineInv readSignal ∧ readSignal.controllerTurn clean = .next (nextOf (readSignal.controllerTurn clean) r0) ∧
      readSignal.fsm = .exec ∧ (nextOf (readSignal.controllerTurn clean) r0).fsm ≠ .exec) ∧
    MachineInv readyW ∧ readyW.controllerTurn clean = .next readyW ∧ readyW.fsm ≠ .exec :=
  ⟨⟨writeData_inv, rfl, by decide⟩, ⟨readData_inv, rfl, by decide⟩, ⟨readSignal_inv, rfl, by decide⟩, ready_inv _ _,
    rfl, by decide⟩

/-- A 16-bit access, an access at offset 6, reads of STATUS, of ADDR and at each end of the reserved offsets. -/
theorem witness_RegisterPortAccesses :
    ((withHost [] [.regRead ⟨2, 0x04⟩] r0).env.hostProg = [.regRead ⟨2, 0x04⟩] ∧
      (2 ≠ 4 ∨ (0x04 : BitVec 8).toNat % 4 ≠ 0)) ∧
    ((withHost [] [.regWrite ⟨4, 0x06⟩ 1] r0).env.hostProg = [.regWrite ⟨4, 0x06⟩ 1] ∧
      (0x06 : BitVec 8).toNat % 4 ≠ 0) ∧
    ((withHost [] [.regRead ⟨4, 0x04⟩] r0).env.hostProg = [.regRead ⟨4, 0x04⟩] ∧ (0x04 : BitVec 8).toNat % 4 = 0 ∧
      (withHost [] [.regRead ⟨4, 0x04⟩] r0).fsm = .idle) ∧
    (withHost [] [.regRead ⟨4, 0x20⟩] r0).env.hostProg = [.regRead ⟨4, 0x20⟩] ∧
    r0.cfg.rbHdrSize < 2 ^ 16 ∧ (0x3C : BitVec 8) = 0x3C ∧
    (0x60 ≤ (0x60 : BitVec 8).toNat ∧ 0x60 ≤ (0xFF : BitVec 8).toNat) := by decide

theorem witness_RegisterPortWrites :
    0x28 ≤ (0x28 : BitVec 8).toNat ∧
    (0x10 ≤ (0x10 : BitVec 8).toNat ∧ (0x24 : BitVec 8).toNat ≤ 0x24 ∧ (0x24 : BitVec 8).toNat % 4 = 0 ∧
      (waiting [] []).fsm ≠ .idle) ∧ readyW.fsm = .idle := by decide

theorem witness_StatusWordFields : (waiting [entL, entR, entE] []).neg.ents.length ≤ 3 := by decide

/-- Signals on the port and on another, and a delivery in each direction with one signal under way. -/
theorem witness_PartnerEventsSetRxp :
    (withPartner [] [.signal 5] readyW).env.partnerProg = [.signal 5] ∧
    (withPartner [] [.signal 4] readyW).env.partnerProg = [.signal 4] ∧ readyW.cfg.swIrqPort = 5 ∧
    ((withPartner [.deliverToIrbc 0] [] { readyW with mbx := { Mailbox.empty with sigFromPartner := 1 } }).env.sched
        = [.deliverToIrbc 0] ∧
      0 < (withPartner [.deliverToIrbc 0] []
        { readyW with mbx := { Mailbox.empty with sigFromPartner := 1 } }).mbx.sigFromPartner) ∧
    (withPartner [.deliverToPartner 1] [] readyW).env.sched = [.deliverToPartner 1] := by decide

/-- A push into the last free place, and one into a full FIFO. -/
theorem witness_FullFifoMakesThePartnerWait :
    ((withPartner [] [.push entL] (waiting [] [entR, entE])).env.partnerProg = [.push entL] ∧
      (withPartner [] [.push entL] (waiting [] [entR, entE])).mbx.inbound.length
        < (withPartner [] [.push entL] (waiting [] [entR, entE])).cfg.mboxFifoDepth) ∧
    (withPartner [] [.push entL] (waiting [] [entR, entE, entL])).env.partnerProg = [.push entL] ∧
      (withPartner [] [.push entL] (waiting [] [entR, entE, entL])).cfg.mboxFifoDepth
        ≤ (withPartner [] [.push entL] (waiting [] [entR, entE, entL])).mbx.inbound.length := by decide

/-- Reset outside a transfer, before a transfer's data accesses, and among those of a WRITE and of a READ, with an
address outside the bytes it abandons. -/
theorem witness_ResetInputRestoresRegisters :
    ((withHost [.reset] [] readyW).env.sched = [.reset] ∧ MemInv (withHost [.reset] [] readyW) ∧
      (withHost [.reset] [] readyW).fsm ≠ .exec) ∧
    ((withHost [.reset] [] (running .write .loadOwn 0 0 0 0 [])).env.sched = [.reset] ∧
      MemInv (withHost [.reset] [] (running .write .loadOwn 0 0 0 0 [])) ∧
      (withHost [.reset] [] (running .write .loadOwn 0 0 0 0 [])).xfer.phase ≠ .data ∧
      (withHost [.reset] [] (running .write .loadOwn 0 0 0 0 [])).xfer.phase ≠ .publish) ∧
    ((withHost [.reset] [] writeData).env.sched = [.reset] ∧ MemInv (withHost [.reset] [] writeData) ∧
      (withHost [.reset] [] writeData).xfer.cmd = .write ∧
      ∀ k < 24 + 5, (0x2010005D : Word) ≠ (withHost [.reset] [] writeData).localRing.byteAddr 64 0 k) ∧
    (withHost [.reset] [] readData).env.sched = [.reset] ∧ MemInv (withHost [.reset] [] readData) ∧
      (withHost [.reset] [] readData).xfer.cmd = .read ∧
      ∀ i < 25 - 20, (0x00100005 : Word) ≠ (withHost [.reset] [] readData).args.addr + BitVec.ofNat 32 i :=
  ⟨⟨rfl, rfl, by decide⟩, ⟨rfl, rfl, by decide⟩, ⟨rfl, rfl, by decide⟩, rfl, rfl, by decide⟩

theorem witness_ResetRegisterValues : (0x04 : BitVec 8) ≠ 0x58 ∧ (0x04 : BitVec 8) ≠ 0x5C := by decide

theorem witness_StepKeepsTheInvariant : MachineInv readyW ∧ step readyW = .next readyW := ⟨ready_inv _ _, rfl⟩

theorem witness_MemoryReplaysTheTrace : MachineInv writeData ∧ step writeData = .next (nextOf (step writeData) r0) :=
  ⟨writeData_inv, rfl⟩

/-- Five events, oldest first: the host stores a byte and begins command 1, the partner pushes an entry, and the IRBC pops
it and reads the byte. One entry is in the inbound FIFO at the start, and is lost. -/
def storeEvent : Event := ⟨.host, 0, .plainWrite, 0x100, [⟨7, Mark.clear⟩], false⟩
def beginEvent : Event := ⟨.host, 1, .cmdWrite, 0, [], false⟩
def pushEvent : Event := ⟨.partner, 1, .push 1, 0, entryBytes entR, false⟩
def popEvent : Event := ⟨.controller, 1, .pop 1, 0, entryBytes entR, false⟩
def readEvent : Event := ⟨.controller, 1, .plainRead, 0x100, [⟨7, Mark.clear⟩], false⟩

/-- The same, newest first. -/
def trace5 : List Event := [readEvent, popEvent, pushEvent, beginEvent, storeEvent]

/-- Their execution. -/
def exec5 : Execution where
  events := [storeEvent, beginEvent, pushEvent, popEvent, readEvent]
  init := fun _ => 0
  rf := fun q a => if 0 < q ∧ a = 0x100 then some 0 else none
  mo := fun _ _ _ => False
  obP := fun _ _ => False
  obH := fun i j => i = 0 ∧ j = 1
  fifo := [entL]

theorem exec5_at (i : Nat) (e : Event) : exec5.At i e ↔
    (i = 0 ∧ e = storeEvent) ∨ (i = 1 ∧ e = beginEvent) ∨ (i = 2 ∧ e = pushEvent) ∨ (i = 3 ∧ e = popEvent) ∨
      (i = 4 ∧ e = readEvent) := by
  simp only [Execution.At, exec5]
  rcases i with _ | _ | _ | _ | _ | i <;> simp [eq_comm]

theorem exec5_writes (i : Nat) (a : Word) : exec5.WritesAt i a ↔ i = 0 ∧ a = 0x100 := by
  simp only [Execution.WritesAt, exec5_at]
  constructor
  · rintro ⟨e, ⟨rfl, rfl⟩ | ⟨rfl, rfl⟩ | ⟨rfl, rfl⟩ | ⟨rfl, rfl⟩ | ⟨rfl, rfl⟩, hw, hc⟩
    · refine ⟨rfl, ?_⟩
      obtain ⟨k, hk, rfl⟩ := (inRun_iff _ _ _).1 hc
      simp only [storeEvent, List.length_cons, List.length_nil, Nat.lt_one_iff, Nat.zero_add] at hk
      simp [hk, storeEvent]
    all_goals cases hw
  · rintro ⟨rfl, rfl⟩
    exact ⟨storeEvent, .inl ⟨rfl, rfl⟩, rfl, (inRun_iff _ _ _).2 ⟨0, by decide, rfl⟩⟩

theorem exec5_inOrder (ag : Agent) (i j : Nat) : exec5.InOrder ag i j ↔
    (ag = .host ∧ i = 0 ∧ j = 1) ∨ (ag = .controller ∧ i = 3 ∧ j = 4) := by
  simp only [Execution.InOrder, exec5_at]
  constructor
  · rintro ⟨h, ⟨e, he, rfl⟩, f, hf, hg⟩
    rcases he with ⟨rfl, rfl⟩ | ⟨rfl, rfl⟩ | ⟨rfl, rfl⟩ | ⟨rfl, rfl⟩ | ⟨rfl, rfl⟩ <;>
      rcases hf with ⟨rfl, rfl⟩ | ⟨rfl, rfl⟩ | ⟨rfl, rfl⟩ | ⟨rfl, rfl⟩ | ⟨rfl, rfl⟩ <;>
      simp_all [storeEvent, beginEvent, pushEvent, popEvent, readEvent]
  · rintro (⟨rfl, rfl, rfl⟩ | ⟨rfl, rfl, rfl⟩)
    · exact ⟨by omega, ⟨storeEvent, by simp, rfl⟩, beginEvent, by simp, rfl⟩
    · exact ⟨by omega, ⟨popEvent, by simp, rfl⟩, readEvent, by simp, rfl⟩

theorem exec5_ofTrace : exec5.OfTrace trace5.reverse [] [entL] where
  events := rfl
  init := fun _ => rfl
  fifo := rfl
  rf := by
    intro q a w
    simp only [exec5_writes]
    show (if 0 < q ∧ a = 0x100 then some 0 else none) = some w ↔ _
    split
    · constructor
      · rintro ⟨⟩
        exact ⟨by omega, ⟨rfl, by tauto⟩, by omega⟩
      · rintro ⟨-, ⟨rfl, -⟩, -⟩
        rfl
    · rename_i hn
      constructor
      · nofun
      · rintro ⟨h, ⟨rfl, rfl⟩, -⟩
        exact (hn ⟨h, rfl⟩).elim
  mo := by
    intro a v w
    simp only [exec5_writes]
    show False ↔ _
    constructor
    · exact False.elim
    · rintro ⟨h, ⟨rfl, -⟩, rfl, -⟩
      exact Nat.lt_irrefl _ h
  obP := by
    intro i j
    rw [exec5_inOrder]
    simp [exec5]
  obH := by
    intro i j
    rw [exec5_inOrder]
    simp [exec5]

theorem exec5_races : exec5.RacesJustified := by
  intro i e a b he hb hr
  have hm := List.mem_of_getElem? hb
  rcases (exec5_at i e).1 he with ⟨-, rfl⟩ | ⟨-, rfl⟩ | ⟨-, rfl⟩ | ⟨-, rfl⟩ | ⟨-, rfl⟩ <;>
    simp only [storeEvent, beginEvent, pushEvent, popEvent, readEvent, entryBytes, wordBytes, List.cons_append,
      List.nil_append, List.mem_cons, List.not_mem_nil, or_false] at hm
  · subst hm; cases hr
  · rcases hm with rfl | rfl | rfl | rfl | rfl | rfl | rfl | rfl <;> cases hr
  · rcases hm with rfl | rfl | rfl | rfl | rfl | rfl | rfl | rfl <;> cases hr
  · subst hm; cases hr

theorem witness_InterleavingsAreConsistent :
    traceOrdered trace5 ∧ (∀ e ∈ trace5, e.Wf) ∧ readsAgree trace5 [] ∧ mailboxAgrees trace5 [entL] ∧
    Mem.wf [] = true ∧ exec5.OfTrace trace5.reverse [] [entL] ∧ exec5.RacesJustified ∧
    exec5.At 3 popEvent ∧ popEvent.kind = .pop 1 ∧ [entL].length ≤ 1 := by
  refine ⟨?_, ?_, ?_, ?_, rfl, exec5_ofTrace, exec5_races, rfl, rfl, by decide⟩
  · simp [traceOrdered, trace5, Event.obBefore, Event.before, Event.starts, Event.finishes, EventKind.rank, readEvent,
      popEvent, pushEvent, beginEvent, storeEvent]
  · intro e he
    simp only [trace5, List.mem_cons, List.not_mem_nil, or_false] at he
    rcases he with rfl | rfl | rfl | rfl | rfl <;> constructor <;>
      simp [readEvent, popEvent, pushEvent, beginEvent, storeEvent, entryBytes, wordBytes]
  · refine ⟨fun _ a b hb _ => ?_, nofun, nofun, nofun, nofun, trivial⟩
    have hl : (a - 0x100).toNat < 1 := by
      simpa [readEvent] using (List.getElem?_eq_some_iff.1 hb).1
    have ha : a = 0x100 := by bv_omega
    subst ha
    cases hb
    decide
  · simp [mailboxAgrees, trace5, pushed, EventKind.isPush, readEvent, popEvent, pushEvent, beginEvent, storeEvent]

/-- A step that changes nothing, and the third good entry of an OPEN. -/
theorem witness_StepKeepsTheEventOrder :
    (MachineInv readyW ∧ TraceInv readyW ∧ step readyW = .next readyW) ∧
    MachineInv (opening [entL, entR] [entE]) ∧ TraceInv (opening [entL, entR] [entE]) ∧
      step (opening [entL, entR] [entE]) = .next (nextOf (step (opening [entL, entR] [entE])) r0) :=
  ⟨⟨ready_inv _ _, ready_trace _ _, rfl⟩, opening_inv _ _ (by decide) (by decide), opening_trace _ _, rfl⟩

/-- Parameters, memory and a mailbox with an entry in it. -/
theorem witness_ResetMeetsTheInvariant :
    (cfg0.Valid ∧ Mem.wf [(4, 7)] = true ∧ ({ Mailbox.empty with inbound := [entL] } : Mailbox).inbound.length
      ≤ cfg0.mboxFifoDepth) ∧ Initial r0 :=
  ⟨⟨cfg0_valid, by decide, by decide⟩, rfl, cfg0_valid, Nat.zero_le _, rfl, rfl, List.suffix_rfl⟩

/-- A host's turn that closes an open socket, and the third good entry of an OPEN. -/
def closing : State := withHost [.host] [.regWrite ⟨4, 0x00⟩ 2] readyW

theorem closing_inv : MachineInv closing :=
  (ready_inv 0x00100000 5).frame _ _ Results.atReset Mailbox.empty [] false (by decide) rfl

theorem witness_OpenChangesOnlyByOpenCloseReset :
    (MachineInv (opening [entL, entR] [entE]) ∧
      step (opening [entL, entR] [entE]) = .next (nextOf (step (opening [entL, entR] [entE])) r0) ∧
      (opening [entL, entR] [entE]).status.isOpen = false ∧
      (nextOf (step (opening [entL, entR] [entE])) r0).status.isOpen = true) ∧
    MachineInv closing ∧ step closing = .next (nextOf (step closing) r0) ∧ closing.status.isOpen = true ∧
      (nextOf (step closing) r0).status.isOpen = false :=
  ⟨⟨opening_inv _ _ (by decide) (by decide), rfl, by decide⟩, closing_inv, rfl, by decide⟩

/-- The end of a READ, and a NEGPEND with an entry pending. -/
def pending : State :=
  withHost [.host] [.regWrite ⟨4, 0x00⟩ 3] { readyW with mbx := { Mailbox.empty with inbound := [entL] } }

theorem pending_inv : MachineInv pending :=
  (ready_inv 0x00100000 5).frame _ _ Results.atReset _ [] false (by decide) rfl

theorem witness_ResultsChangeOnlyOnSuccess :
    (MachineInv readSignal ∧ step readSignal = .next (nextOf (step readSignal) r0) ∧
      (nextOf (step readSignal) r0).results ≠ readSignal.results) ∧
    MachineInv pending ∧ step pending = .next (nextOf (step pending) r0) ∧
      (nextOf (step pending) r0).results ≠ pending.results :=
  ⟨⟨readSignal_inv, rfl, by decide⟩, pending_inv, rfl, by decide⟩

/-- A faulted socket that holds, a bus error that sets HWF, a RESET that clears it. -/
def faulted : State := { readyW with status := { readyW.status with hwf := true } }
def busFault : State := withHost [.controller badBus] [] writeData
def recovering : State := withHost [.host] [.regWrite ⟨4, 0x00⟩ 5] faulted

theorem witness_HwfLatchesUntilRecovery :
    (MachineInv faulted ∧ step faulted = .next faulted ∧ faulted.status.hwf = true) ∧
    (MachineInv busFault ∧ step busFault = .next (nextOf (step busFault) r0) ∧ busFault.status.hwf = false ∧
      (nextOf (step busFault) r0).status.hwf = true) ∧
    MachineInv recovering ∧ step recovering = .next (nextOf (step recovering) r0) ∧ recovering.status.hwf = true ∧
      (nextOf (step recovering) r0).status.hwf = false :=
  ⟨⟨faulted_inv, rfl, rfl⟩,
    ⟨writeData_inv.frame _ _ Results.atReset Mailbox.empty [] false (by decide) rfl, rfl, by decide⟩,
    faulted_inv.frame _ _ Results.atReset Mailbox.empty [] false (by decide) rfl, rfl, by decide⟩

/-- The controller's step that signals, one that does not, and the host's CMD write of a WRITE. -/
theorem witness_SignalOnlyOnSuccess :
    (step readSignal = .next (nextOf (step readSignal) r0) ∧ readSignal.controllerMoves clean ∧ readSignal.fsm = .exec ∧
      readSignal.xfer.phase = .signal) ∧
    (step writeData = .next (nextOf (step writeData) r0) ∧ writeData.xfer.phase ≠ .signal) ∧
    step (withHost [.host] [.regWrite ⟨4, 0x00⟩ 6] readyW)
      = .next (nextOf (step (withHost [.host] [.regWrite ⟨4, 0x00⟩ 6] readyW)) r0) :=
  ⟨⟨rfl, .inl ⟨rfl, rfl⟩, rfl, rfl⟩, ⟨rfl, by decide⟩, rfl⟩

/-- Turns of the partner and the mailbox, and a host turn with each memory act, with a poll and with a register read. -/
theorem witness_OtherAgentsChangeNoRegister :
    (∀ act ∈ ([.load 0x20100000 false, .store 0x20100004 48 false, .load32 0x20100000 0, .store32 0x20100004 48 0,
        .loadAcq 0x20100000 0, .storeRel 0x20100004 48 0, .poll ⟨4, 0x04⟩ 1 0, .regRead ⟨4, 0x04⟩] : List HostAct),
      (withHost [.host] [act] readyW).env.sched = [.host] ∧
      (∀ acc v rest, (withHost [.host] [act] readyW).env.hostProg ≠ .regWrite acc v :: rest) ∧
      ∃ t, step (withHost [.host] [act] readyW) = .next t) ∧
    (withPartner [.partner] [.store 0x20100004 48 false] readyW).env.sched = [.partner] ∧
    (withPartner [.partner] [.push entL] readyW).env.sched = [.partner] ∧
    (withPartner [.deliverToIrbc 2] [] readyW).env.sched = [.deliverToIrbc 2] ∧
    (withPartner [.deliverToPartner 0] [] readyW).env.sched = [.deliverToPartner 0] ∧
    step (withPartner [.partner] [.store 0x20100004 48 false] readyW)
      = .next (nextOf (step (withPartner [.partner] [.store 0x20100004 48 false] readyW)) r0) :=
  ⟨by
    intro act h
    simp only [List.mem_cons, List.not_mem_nil, or_false] at h
    rcases h with rfl | rfl | rfl | rfl | rfl | rfl | rfl | rfl <;> exact ⟨rfl, nofun, _, rfl⟩, rfl, rfl, rfl, rfl, rfl⟩

/-- NEG_TIMEOUT enabled and disabled. -/
theorem witness_TimeoutOnlyWhileHeld :
    ((withHost [.timeout] [] timed).env.sched = [.timeout] ∧ (withHost [.timeout] [] timed).cfg.negTimeout = true ∧
      (withHost [.timeout] [] timed).fsm = .negWait ∧ (withHost [.timeout] [] timed).mbx.inbound = [] ∧
      (withHost [.timeout] [] timed).neg.abortReq = false) ∧
    (withHost [.timeout] [] (waiting [] [])).env.sched = [.timeout] := by decide

end Sys2Proof.Tests
end

section
/-! PROOFS. The register port (`10_state.md` R14 to R24): where each register stands, what a write at an offset does, and
the fields of STATUS; with them the statements on register reads and writes and on commands at BUSY = 1. -/

namespace Sys2Proof.Machine

variable {s : State} {off : BitVec 8} {r : Reg}

/-! ### The register map -/

/-- An offset that has a register stands with it in the map. -/
theorem regAt_mem (h : regAt off = some r) : (off, r) ∈ regMap := by
  obtain ⟨⟨o, q⟩, hfind, rfl⟩ := Option.map_eq_some_iff.1 h
  have ho : o = off := by simpa using List.find?_some hfind
  exact ho ▸ List.mem_of_find?_eq_some hfind

/-- CMD stands at offset 0 alone (`10_state.md` R14). -/
theorem offset_of_regAt_cmd (h : regAt off = some .cmd) : off = 0x00 := by
  simpa [regMap] using regAt_mem h

/-- The registers that no write changes (`10_state.md` R14, R15 rule 3). -/
def Reg.readOnly : Reg → Bool
  | .rid0 | .rid1 | .rid2 | .rid3 | .rlen => true
  | .ldesc | .lbase | .lcap | .rdesc | .rbase | .rcap => true
  | .param0 | .param1 => true
  | _ => false

/-- The argument registers (`10_state.md` R21). -/
def Reg.isArg : Reg → Bool
  | .id0 | .id1 | .id2 | .id3 | .addr | .len => true
  | _ => false

/-- The registers from offset 0x28 on are read-only. -/
theorem readOnly_of_regAt (h : regAt off = some r) (hoff : 0x28 ≤ off.toNat) : r.readOnly = true := by
  have hmap : ∀ e ∈ regMap, 0x28 ≤ e.1.toNat → e.2.readOnly = true := by decide
  exact hmap _ (regAt_mem h) hoff

/-- The aligned offsets 0x10 to 0x24 are those of the argument registers. -/
theorem regAt_isArg (hlo : 0x10 ≤ off.toNat) (hhi : off.toNat ≤ 0x24) (hal : off.toNat % 4 = 0) :
    ∃ r, regAt off = some r ∧ r.isArg = true := by
  have hoff : off = 0x10#8 ∨ off = 0x14#8 ∨ off = 0x18#8 ∨ off = 0x1C#8 ∨ off = 0x20#8 ∨ off = 0x24#8 := by bv_omega
  rcases hoff with rfl | rfl | rfl | rfl | rfl | rfl <;> exact ⟨_, rfl, rfl⟩

/-- The offset 0x3C and those from 0x60 on are reserved (`10_state.md` R14). -/
theorem regAt_reserved (h : off = 0x3C ∨ 0x60 ≤ off.toNat) : regAt off = none := by
  have hmap : ∀ e ∈ regMap, ¬ (e.1 = 0x3C ∨ 0x60 ≤ e.1.toNat) := by decide
  cases hr : regAt off with
  | none => rfl
  | some r => exact absurd h (hmap _ (regAt_mem hr))

/-! ### Writes -/

/-- A write at a register's offset, CMD apart, is the register's write. -/
theorem State.writeOffset_reg (s : State) (v : Word) (h : regAt off = some r) (hr : r ≠ .cmd) :
    s.writeOffset off v = .next (s.writeReg r v) := by
  simp only [State.writeOffset, h]

/-- A write at a reserved offset changes nothing. -/
theorem State.writeOffset_none (s : State) (v : Word) (h : regAt off = none) : s.writeOffset off v = .next s := by
  simp only [State.writeOffset, h]

/-- A write to a read-only register changes nothing. -/
theorem State.writeReg_readOnly (s : State) (v : Word) (h : r.readOnly = true) : s.writeReg r v = s := by
  cases r <;> cases h <;> rfl

/-- A write to an argument register at BUSY = 1 sets OVR alone. -/
theorem State.writeReg_arg_busy (v : Word) (h : r.isArg = true) (hs : s.fsm ≠ .idle) : s.writeReg r v = s.overrun := by
  have hbusy : ∀ f, s.writeArg f = s.overrun := fun f => if_pos (State.busy_iff.2 hs)
  cases r <;> cases h <;> simp only [State.writeReg, hbusy]

/-- A write to an argument register at BUSY = 0 changes the arguments as the register says. -/
theorem State.writeArg_idle (f : Args → Args) (hs : s.fsm = .idle) : s.writeArg f = { s with args := f s.args } := by
  simp [State.writeArg, State.busy, hs]

/-! ### Reads -/

/-- A read at a reserved offset returns 0. -/
theorem State.readOffset_reserved (s : State) (h : off = 0x3C ∨ 0x60 ≤ off.toNat) : s.readOffset off = 0 := by
  simp only [State.readOffset, regAt_reserved h]

/-- A one-bit register reads as 0 or 1. -/
theorem append_ofBool (b : Bool) : (0#31 ++ BitVec.ofBool b : Word) = if b then 1 else 0 := by
  cases b <;> rfl

/-- The fields of PARAM0 as a number (`10_state.md` R24). -/
theorem param0Word_toNat {cfg : Params} (h : cfg.rbHdrSize < 2 ^ 16) :
    (param0Word cfg).toNat = cfg.rbHdrSize + 16 * 2 ^ 16 + 20 * 2 ^ 24 := by
  rw [param0Word, BitVec.toNat_append, ← Nat.shiftLeft_add_eq_or_of_lt (BitVec.isLt _)]
  simp [Config.msgHdrSize, Config.rbAlignment]
  omega

/-- A register read answers the value, and a STATUS read that shows BUSY = 0 is recorded (log 20). -/
theorem State.hostRead_eq (acc : Access) (s : State) :
    s.hostRead acc =
      { s with
        env := { s.env with hostResp := .data (s.readOffset acc.offset) }
        ghost := { s.ghost with trace :=
          if acc.offset = 0x04 ∧ s.fsm = .idle then
            ⟨.host, s.ghost.cmdNo, .idleRead, 0, [], false⟩ :: s.ghost.trace
          else s.ghost.trace } } := by
  have hbusy : s.busy = false ↔ s.fsm = .idle := by simp [State.busy]
  simp only [State.hostRead, hbusy]
  split <;> rfl

/-- What the register port asks of an access it performs (`10_state.md` R15, rule 1). -/
theorem accessWf_iff {a : Access} : a.wf = true ↔ a.size = 4 ∧ a.offset.toNat % 4 = 0 := by
  simp [Access.wf, Access.sizeOk, Access.alignedOk]

/-! ### STATUS -/

/-- BUSY as the statements write it. -/
theorem State.busy_eq (s : State) : s.busy = decide (s.fsm ≠ .idle) := by
  cases h : s.fsm <;> simp [State.busy, h]

/-- The one-bit fields of STATUS. -/
theorem State.statusWord_flags (s : State) :
    s.statusWord.getLsbD 0 = s.busy ∧ s.statusWord.getLsbD 1 = s.status.isOpen ∧ s.statusWord.getLsbD 2 = s.status.rv ∧
      s.statusWord.getLsbD 3 = s.negp ∧ s.statusWord.getLsbD 4 = s.status.hwf ∧
      s.statusWord.getLsbD 5 = s.status.ovr := by
  refine ⟨?_, ?_, ?_, ?_, ?_, ?_⟩ <;> rw [State.statusWord, BitVec.getLsbD_append] <;>
    simp [BitVec.getLsbD_append, -BitVec.getLsbD_eq_getElem, -Nat.reduceAdd]

/-- The wider fields of STATUS. -/
theorem State.statusWord_slices (s : State) :
    s.statusWord.extractLsb' 6 2 = s.fsm.code ∧ s.statusWord.extractLsb' 8 4 = s.status.err.code ∧
      s.statusWord.extractLsb' 12 4 = s.status.lopc ∧ s.statusWord.extractLsb' 16 8 = s.status.detail.code ∧
      s.statusWord.extractLsb' 24 2 = BitVec.ofNat 2 s.negK ∧ s.statusWord.extractLsb' 26 6 = 0#6 := by
  refine ⟨?_, ?_, ?_, ?_, ?_, ?_⟩ <;> rw [State.statusWord, BitVec.extractLsb'_append_eq_of_le (by decide)] <;>
    simp (disch := decide) [BitVec.extractLsb'_append_eq_of_le, BitVec.extractLsb'_append_eq_right, -Nat.reduceAdd]

/-! ### Commands at BUSY = 1 -/

/-- At BUSY = 1 every command but an abort, which is CLOSE or RESET in NEG_WAIT, sets OVR alone. -/
theorem exec_busy {i : Instr} {c : Word} (hs : s.fsm ≠ .idle) (hc : decodeCmd c = .ok i)
    (ha : s.fsm = .negWait → i ≠ .close ∧ ∀ both, i ≠ .reset both) : exec i s = .next s.overrun := by
  have hidle : ∀ f, s.atIdle f = s.overrun := fun f => State.atIdle_busy f hs
  have habort : ∀ f, s.fsm ≠ .negWait → s.atIdleOrAbort i f = s.overrun := fun f hw =>
    State.atIdleOrAbort_exec i f (by cases hf : s.fsm <;> simp_all)
  rcases decodeCmd_ok hc with ⟨rxie, rfl⟩ | rfl | rfl | rfl | ⟨both, rfl⟩ | rfl | rfl
  · exact congrArg Host.Outcome.next (hidle _)
  · exact congrArg Host.Outcome.next (habort _ fun hw => (ha hw).1 rfl)
  · exact congrArg Host.Outcome.next (hidle _)
  · exact congrArg Host.Outcome.next (hidle _)
  · exact congrArg Host.Outcome.next (habort _ fun hw => (ha hw).2 both rfl)
  · exact congrArg Host.Outcome.next (hidle _)
  · exact congrArg Host.Outcome.next (hidle _)

/-- A CLOSE in NEG_WAIT is recorded as the abort. -/
theorem execClose_negWait (h : s.fsm = .negWait) : exec .close s = .next (s.requestAbort .close) :=
  congrArg Host.Outcome.next (State.atIdleOrAbort_negWait _ _ h)

/-- A RESET in NEG_WAIT is recorded as the abort. -/
theorem execReset_negWait (both : Bool) (h : s.fsm = .negWait) :
    exec (.reset both) s = .next (s.requestAbort (.reset both)) :=
  congrArg Host.Outcome.next (State.atIdleOrAbort_negWait _ _ h)

/-! ### The statements -/

/-- Settles O44: the flags and the slices of the STATUS word, and the code tables entry by entry. -/
theorem statusWordFields : Obligations.StatusWordFields := by
  unfold Obligations.StatusWordFields
  refine ⟨fun s hk => ?_, rfl, rfl, rfl, rfl, rfl, rfl, fun d => by cases d <;> rfl⟩
  obtain ⟨hbusy, hopen, hrv, hnegp, hhwf, hovr⟩ := s.statusWord_flags
  obtain ⟨hfsm, herr, hlopc, hdetail, hnegk, hzero⟩ := s.statusWord_slices
  have hcount : (BitVec.ofNat 2 s.negK).toNat = s.neg.ents.length := by
    rw [BitVec.toNat_ofNat, State.negK, Nat.mod_eq_of_lt (by omega)]
  exact ⟨hbusy.trans s.busy_eq, hopen, hrv, hnegp, hhwf, hovr, hfsm, herr, hlopc,
    hdetail, hnegk ▸ hcount, hzero⟩

/-- Settles O14: every command's rule starts with the test of BUSY. -/
theorem busyControllerIgnoresCommands : Obligations.BusyControllerIgnoresCommands := by
  unfold Obligations.BusyControllerIgnoresCommands
  refine fun s hs => ⟨fun i hi ha => ?_, fun hw => ⟨?_, ?_, ?_⟩⟩
  · obtain ⟨c, hc⟩ := hi
    exact exec_busy hs hc ha
  · exact execClose_negWait hw
  · exact execReset_negWait false hw
  · exact execReset_negWait true hw

/-- Settles O41: the register port's answers, and the register map offset by offset. -/
theorem registerPortAccesses : Obligations.RegisterPortAccesses := by
  unfold Obligations.RegisterPortAccesses
  refine ⟨fun s rest acc v hprog => ⟨fun hbad => ?_, fun hread hsize halign => ?_⟩, fun s => ?_⟩
  · have hwf : acc.wf ≠ true := fun h => by
      obtain ⟨hsize, halign⟩ := accessWf_iff.1 h
      exact hbad.elim (· hsize) (· halign)
    rcases hprog with h | h <;> simp only [State.hostTurn, h, State.hostAct, if_neg hwf] <;> rfl
  · simp only [State.hostTurn, hread, State.hostAct, if_pos (accessWf_iff.2 ⟨hsize, halign⟩), State.hostRead_eq]
    rfl
  · exact ⟨rfl, append_ofBool _, append_ofBool _, rfl, rfl, rfl, rfl, rfl, rfl, rfl, rfl, rfl, rfl, rfl, rfl, rfl, rfl,
      rfl, rfl, rfl, param0Word_toNat, rfl, fun _ => s.readOffset_reserved⟩

/-- Settles O42: which registers stand where, and what a write to each kind does. -/
theorem registerPortWrites : Obligations.RegisterPortWrites := by
  unfold Obligations.RegisterPortWrites
  refine fun s off v => ⟨fun hoff => ?_, fun hlo hhi hal hbusy => ?_, fun hidle => ?_⟩
  · cases hr : regAt off with
    | none => exact s.writeOffset_none v hr
    | some r =>
      have hro := readOnly_of_regAt hr hoff
      rw [s.writeOffset_reg v hr (by rintro rfl; cases hro), s.writeReg_readOnly v hro]
  · obtain ⟨r, hr, harg⟩ := regAt_isArg hlo hhi hal
    rw [s.writeOffset_reg v hr (by rintro rfl; cases harg), State.writeReg_arg_busy v harg hbusy]
    rfl
  · refine ⟨?_, ?_, ?_, ?_, ?_, ?_⟩ <;>
      (show Host.Outcome.next (s.writeReg _ v) = _; rw [State.writeReg, State.writeArg_idle _ hidle])

/-- Settles O43: these three registers are written whatever the controller does. -/
theorem statusAndInterruptWrites : Obligations.StatusAndInterruptWrites := by
  unfold Obligations.StatusAndInterruptWrites
  refine fun s v => ⟨?_, rfl, ?_⟩
  · rw [s.writeOffset_reg (r := .status) v rfl nofun, State.writeReg]
    split <;> rfl
  · rw [s.writeOffset_reg (r := .irqPend) v rfl nofun, State.writeReg]
    split <;> rfl

end Sys2Proof.Machine
end

section
/-! PROOFS. What one step can do to OPEN, HWF and the result registers (`10_state.md` R18, R19, R22): said once for a
controller's step, for a CMD write and for every other turn, and from that the three statements on when they change. -/

namespace Sys2Proof.Machine

variable {s t : State}

/-! ### Words and instructions -/

/-- A word is its bits outside a one-bit field, and the field. -/
theorem word_split (c : Word) (k : Nat) :
    c = (c &&& ~~~ BitVec.twoPow 32 k) ||| (if c.getLsbD k then BitVec.twoPow 32 k else 0#32) := by
  rw [← BitVec.and_twoPow, ← BitVec.and_or_distrib_left, BitVec.not_or_self, BitVec.and_allOnes]

/-- A CMD word that decodes is the word of its command (`30_encoding.md` R64, R65). -/
theorem firstWord_of_decodeCmd {c : Word} {i : Instr} (h : decodeCmd c = .ok i) : c = firstWord i := by
  simp only [decodeCmd] at h
  split at h
  · rename_i r hfind
    have hacc : c &&& r.mask = r.pat := by simpa [CmdRow.accepts] using List.find?_some hfind
    have hmem := List.mem_of_find?_eq_some hfind
    cases h
    have hall : ∀ x : Word, c &&& 0xFFFFFFFF = x → c = x := fun x hx => by
      rwa [show (0xFFFFFFFF : Word) = BitVec.allOnes 32 from rfl, BitVec.and_allOnes] at hx
    simp only [cmdTable, List.mem_cons, List.not_mem_nil, or_false] at hmem
    rcases hmem with rfl | rfl | rfl | rfl | rfl | rfl | rfl
    · refine (word_split c 5).trans ?_
      rw [show ~~~ BitVec.twoPow 32 5 = 0xFFFFFFDF by decide, hacc]
      cases hb : c.getLsbD 5 <;> simp only [firstWord, hb] <;> decide
    · exact hall _ hacc
    · exact hall _ hacc
    · exact hall _ hacc
    · refine (word_split c 4).trans ?_
      rw [show ~~~ BitVec.twoPow 32 4 = 0xFFFFFFEF by decide, hacc]
      cases hb : c.getLsbD 4 <;> simp only [firstWord, hb] <;> decide
    · exact hall _ hacc
    · exact hall _ hacc
  · cases h

/-! ### What is kept -/

/-- OPEN, HWF and the result registers are as before. -/
structure SessionKept (s t : State) : Prop where
  isOpen : t.status.isOpen = s.status.isOpen
  hwf : t.status.hwf = s.status.hwf
  results : t.results = s.results

theorem SessionKept.trans {u : State} (h : SessionKept s t) (h' : SessionKept t u) : SessionKept s u :=
  ⟨h'.isOpen.trans h.isOpen, h'.hwf.trans h.hwf, h'.results.trans h.results⟩

/-- A command ends with a HardwareState error and HWF set (`10_state.md` R19). -/
structure HwfEnds (s t : State) : Prop where
  isOpen : t.status.isOpen = s.status.isOpen
  results : t.results = s.results
  hwf : t.status.hwf = true
  fsm : t.fsm = .idle
  err : t.status.err = .hardwareState

/-- A negotiation ends with success (`42_negotiation.md` R103). -/
structure NegSucceeds (s t : State) : Prop where
  status : t.status =
    { s.status with
      rv := true, hwf := false, err := .ok, detail := .none
      isOpen := if s.neg.kind = .openCmd then true else s.status.isOpen }
  results : t.results = s.results
  fsm : t.fsm = .idle

/-! ### The controller's step -/

/-- A negotiation that fails leaves OPEN as it was, since the socket of a waiting OPEN is closed. -/
theorem State.negFail_kept (d : Detail) (hk : s.neg.kind = .openCmd → s.status.isOpen = false) :
    SessionKept s (s.negFail d) := by
  rw [State.negFail_eq]
  refine ⟨?_, rfl, rfl⟩
  dsimp only
  split
  · exact (hk ‹_›).symm
  · rfl

/-- An entry taken from the FIFO is recorded, or it is the third and ends the negotiation. -/
theorem State.takeEntry_session (e : Entry) (hf : s.fsm = .negWait) (hfew : s.neg.ents.length < Config.negEntries)
    (hk : s.neg.kind = .openCmd → s.status.isOpen = false) :
    SessionKept s (s.takeEntry e) ∨ NegSucceeds s (s.takeEntry e) := by
  have hfew : s.neg.ents.length < 3 := hfew
  by_cases h2 : s.neg.ents.length = 2
  · rw [State.takeEntry_third e hf h2]
    set u : State := { s with neg := { s.neg with ents := s.neg.ents ++ [e] } }
    cases hj : negJudge u.cfg.rbHdrSize u.neg.ents with
    | error d =>
      rw [State.negEval_error hj]
      have hkept : SessionKept u (u.negFail d) := State.negFail_kept d hk
      exact .inl ⟨hkept.isOpen, hkept.hwf, hkept.results⟩
    | ok g =>
      rw [State.negEval_ok hj, State.negSuccess_eq]
      exact .inr ⟨rfl, rfl, rfl⟩
  · rw [State.takeEntry_few e hf (by omega)]
    exact .inl ⟨rfl, rfl, rfl⟩

/-- NEG_ABORT of a CLOSE leaves the socket closed and its registers clear. -/
theorem State.negAbort_close (h : s.neg.abortCmd = firstWord .close) :
    s.negAbort.status = { s.status with
        lopc := 0x2, isOpen := false, rv := false, hwf := false, err := .ok, detail := .none } ∧
      s.negAbort.rings = Rings.unset ∧ s.negAbort.irq = ⟨false, false⟩ := by
  rw [State.negAbort_eq, h, if_pos (by decide)]
  exact ⟨rfl, rfl, rfl⟩

/-- NEG_ABORT of a RESET leaves OPEN as it was: the socket of a waiting OPEN is closed. -/
theorem State.negAbort_reset (both : Bool) (h : s.neg.abortCmd = firstWord (.reset both))
    (hk : s.neg.kind = .openCmd → s.status.isOpen = false) :
    s.negAbort.status = { s.status with
      lopc := 0x5, rv := false, hwf := false, err := .ok, detail := .none } := by
  have hopc : opcField (firstWord (.reset both)) = 0x5 := by cases both <;> rfl
  rw [State.negAbort_eq, h, hopc, if_neg (by decide)]
  dsimp only
  split
  · rw [hk ‹_›]
  · rfl

/-- NEG_ABORT completes and leaves the results. -/
theorem State.negAbort_ends (s : State) : s.negAbort.fsm = .idle ∧ s.negAbort.results = s.results := by
  rw [State.negAbort_eq]
  split <;> exact ⟨rfl, rfl⟩

/-- A step of WRITE or READ that keeps OPEN, HWF and the results, or ends with HWF set. -/
def XferKept (s t : State) : Prop := SessionKept s t ∨ HwfEnds s t

theorem XferKept.of_eq (hst : t.status = s.status) (hres : t.results = s.results) : XferKept s t :=
  .inl ⟨congrArg Status.isOpen hst, congrArg Status.hwf hst, hres⟩

/-- After accesses that leave STATUS and the results, the command ends with an error. -/
theorem XferKept.raise {d : Detail} (hst : t.status = s.status) (hres : t.results = s.results) :
    XferKept s (t.raise d) :=
  .inl ⟨by simp [hst], by simp [hst], hres⟩

/-- After accesses that leave STATUS and the results, the command ends with a HardwareState error. -/
theorem XferKept.raiseHwf {d : Detail} (hd : d.kind = .hardwareState) (hst : t.status = s.status)
    (hres : t.results = s.results) : XferKept s (t.raiseHwf d) :=
  .inr ⟨by simp [hst], hres, rfl, rfl, hd⟩

theorem State.performOp_kept (race : Bool) (i : Nat) (op : DataOp) (s : State) : XferKept s (s.performOp race i op) := by
  cases op <;> exact .of_eq rfl rfl

theorem State.dataStep_kept (c : CtlChoice) (s : State) : XferKept s (s.dataStep c) := by
  simp only [State.dataStep]
  split
  · exact .of_eq rfl rfl
  · split
    · exact .raiseHwf rfl rfl rfl
    · exact s.performOp_kept _ _ _

theorem State.publishStep_kept (c : CtlChoice) (g : RingView) (a v : Word) (s : State) :
    XferKept s (s.publishStep c g a v) := by
  rcases s.publishStep_cases c g a v with ⟨_, h⟩ | ⟨_, h⟩ <;> rw [h]
  · exact .raiseHwf rfl rfl rfl
  · exact .of_eq rfl rfl

theorem State.writeLoadOwn_kept (race : BitVec 4) (s : State) : XferKept s (s.writeLoadOwn race) := by
  simp only [State.writeLoadOwn]
  split
  · exact .raiseHwf rfl rfl rfl
  · split
    · exact .raise rfl rfl
    · exact .of_eq rfl rfl

theorem State.readLoadOwn_kept (race : BitVec 4) (s : State) : XferKept s (s.readLoadOwn race) := by
  simp only [State.readLoadOwn]
  split
  · exact .raiseHwf rfl rfl rfl
  · split
    · exact .raise rfl rfl
    · split
      · exact .raise rfl rfl
      · exact .of_eq rfl rfl

theorem State.readLoadLen_kept (race : BitVec 4) (s : State) : XferKept s (s.readLoadLen race) := by
  simp only [State.readLoadLen]
  split
  · exact .raise rfl rfl
  · split
    · exact .raise rfl rfl
    · exact .of_eq rfl rfl

/-- A primitive that may get an error response. -/
theorem XferKept.ite_busFail (b : Bool) (h : XferKept s t) : XferKept s (if b then s.busFail else t) := by
  cases b
  · exact h
  · exact .raiseHwf rfl rfl rfl

/-- No step of a WRITE changes OPEN or the results, and HWF changes with a HardwareState error alone. -/
theorem State.writeStep_kept (c : CtlChoice) (s : State) : XferKept s (s.writeStep c) := by
  simp only [State.writeStep]
  split
  · exact .ite_busFail _ (.of_eq rfl rfl)
  · exact .ite_busFail _ (s.writeLoadOwn_kept _)
  · exact .of_eq rfl rfl
  · exact s.dataStep_kept c
  · exact s.publishStep_kept c _ _ _
  · exact .inl ⟨rfl, rfl, rfl⟩

/-- The same for a READ, until its signal. -/
theorem State.readStep_kept (c : CtlChoice) (h : s.xfer.phase ≠ .signal) : XferKept s (s.readStep c) := by
  simp only [State.readStep]
  split
  · exact .ite_busFail _ (.of_eq rfl rfl)
  · exact .ite_busFail _ (s.readLoadOwn_kept _)
  · exact .ite_busFail _ (s.readLoadLen_kept _)
  · exact s.dataStep_kept c
  · exact s.publishStep_kept c _ _ _
  · exact absurd ‹_› h

/-- What a controller's step does to OPEN, HWF and the results. -/
inductive CtlEffect (s t : State) : Prop where
  | kept (h : SessionKept s t)
  | negSucceeds (hf : s.fsm = .negWait) (ha : s.neg.abortReq = false) (h : NegSucceeds s t)
  | negAborts (hf : s.fsm = .negWait) (ha : s.neg.abortReq = true) (h : t = s.negAbort)
  | hwfEnds (hf : s.fsm = .exec) (h : HwfEnds s t)
  | readEnds (hf : s.fsm = .exec) (hc : s.xfer.cmd = .read) (hp : s.xfer.phase = .signal)
      (h : t = s.signalPartner.readResults.complete)

theorem CtlEffect.of_xferKept (hf : s.fsm = .exec) (h : XferKept s t) : CtlEffect s t := by
  rcases h with h | h
  · exact .kept h
  · exact .hwfEnds hf h

/-- The socket of a waiting OPEN is closed (`45_session.md` R149). -/
theorem SocketInv.closed_of_openCmd (hi : SocketInv s) (hf : s.fsm = .negWait) (hk : s.neg.kind = .openCmd) :
    s.status.isOpen = false := by
  rw [Bool.eq_false_iff]
  intro ho
  exact absurd (((hi.waitKind hf).1 ho).symm.trans hk) nofun

theorem State.negPop_effect {c : CtlChoice} (hi : SocketInv s) (hf : s.fsm = .negWait) (h : s.negPop c = .next t) :
    CtlEffect s t := by
  have hk := hi.closed_of_openCmd hf
  rcases State.negPop_cases h with ⟨ha, rfl⟩ | ⟨_, _, rfl⟩ | ⟨_, _, _, rfl⟩ | ⟨ha, _, e, es, _, ⟨_, rfl⟩ | ⟨_, rfl⟩⟩
  · exact .negAborts hf ha rfl
  · exact .kept (State.negFail_kept _ hk)
  · exact .kept ⟨rfl, rfl, rfl⟩
  · have hfail := State.negFail_kept
      (s := { s.drawn 1 with
        mbx := { s.mbx with inbound := s.mbx.inbound.drop (Config.freeDrop s.ghost.draws) } }) .negFifoError hk
    exact .kept ⟨hfail.isOpen, hfail.hwf, hfail.results⟩
  · rcases State.takeEntry_session (s := s.popped e es) e hf (hi.waitFew hf) hk with h | h
    · exact .kept ⟨h.isOpen, h.hwf, h.results⟩
    · exact .negSucceeds hf ha ⟨h.status, h.results, h.fsm⟩

theorem State.controllerTurn_effect {c : CtlChoice} (hi : SocketInv s) (h : s.controllerTurn c = .next t) :
    CtlEffect s t := by
  rcases State.controllerTurn_cases h with ⟨_, rfl⟩ | ⟨hf, h⟩ | ⟨hf, _, rfl⟩ | ⟨hf, hc, rfl⟩
  · exact .kept ⟨rfl, rfl, rfl⟩
  · exact State.negPop_effect hi hf h
  · exact .of_xferKept hf (s.writeStep_kept c)
  · by_cases hp : s.xfer.phase = .signal
    · exact .readEnds hf hc hp (by simp only [State.readStep, hp])
    · exact .of_xferKept hf (State.readStep_kept c hp)

/-! ### The CMD write -/

/-- What the CMD write of a command does to OPEN, HWF and the results at BUSY = 0. -/
inductive CmdEffect (i : Instr) (s t : State) : Prop where
  | kept (h : SessionKept s t)
  | closes (hi : i = .close) (h : t = ((s.setLopc 0x2).acceptCmd .close).closeEffects.complete)
  | resets (both : Bool) (hi : i = .reset both)
      (h : t = (((s.setLopc 0x5).acceptCmd (.reset both)).resetEffects both).complete)
  | negPends (hi : i = .negPend) (ho : s.status.isOpen = true)
      (h : t = ((s.setLopc 0x3).acceptCmd .negPend).negPendResult)

theorem State.openIdle_kept (rxie : Bool) (s : State) : SessionKept s (s.openIdle rxie) := by
  simp only [State.openIdle]
  split <;> exact ⟨rfl, rfl, rfl⟩

theorem State.writeStart_kept (s : State) : SessionKept s s.writeStart := by
  simp only [State.writeStart]
  split <;> exact ⟨rfl, rfl, rfl⟩

theorem State.readStart_kept (s : State) : SessionKept s s.readStart := by
  simp only [State.readStart]
  split <;> exact ⟨rfl, rfl, rfl⟩

/-- A command for an open socket has its effect there, and on a closed one keeps OPEN, HWF and the results. -/
theorem CmdEffect.withOpen {i : Instr} {o : BitVec 4} {f : State → State}
    (h : s.status.isOpen = true → CmdEffect i s (f (s.setLopc o))) : CmdEffect i s (s.withOpen o f) := by
  cases ho : s.status.isOpen with
  | true => exact State.withOpen_open o f ho ▸ h ho
  | false => exact State.withOpen_closed o f ho ▸ .kept ⟨rfl, rfl, rfl⟩

/-- A command that keeps OPEN, HWF and the results on an open socket keeps them always. -/
theorem CmdEffect.withOpen_kept {i : Instr} (o : BitVec 4) {f : State → State} (h : ∀ u, SessionKept u (f u)) :
    CmdEffect i s (s.withOpen o f) :=
  .withOpen fun _ => .kept (.trans (t := s.setLopc o) ⟨rfl, rfl, rfl⟩ (h _))

theorem exec_idle_effect {i : Instr} (hs : s.fsm = .idle) (h : exec i s = .next t) : CmdEffect i s t := by
  have hidle : ∀ f, s.atIdle f = f s := fun f => State.atIdle_idle f hs
  have habort : ∀ j f, s.atIdleOrAbort j f = f s := fun j f => State.atIdleOrAbort_idle j f hs
  have htake : ∀ e, s.takeEntry e = s := fun e => by simp only [State.takeEntry, hs]
  cases i <;> simp only [exec, execOpenSocket, execClose, execNegPend, execNegotiate, execReset, execWrite, execRead,
    execLocalBufferDesc, execRemoteBufferDesc, execEndOfSetup, hidle, habort, htake, Host.Outcome.next.injEq] at h <;>
    subst h
  case openSocket rxie => exact .kept (s.openIdle_kept rxie)
  case close => exact .withOpen fun _ => .closes rfl rfl
  case negPend => exact .withOpen fun ho => .negPends rfl ho rfl
  case negotiate => exact .withOpen_kept 0x4 fun _ => ⟨rfl, rfl, rfl⟩
  case reset both => exact .withOpen fun _ => .resets both rfl rfl
  case write => exact .withOpen_kept 0x6 State.writeStart_kept
  case read => exact .withOpen_kept 0x7 State.readStart_kept
  all_goals exact .kept ⟨rfl, rfl, rfl⟩

theorem exec_busy_kept {i : Instr} {c : Word} (hs : s.fsm ≠ .idle) (hc : decodeCmd c = .ok i)
    (h : exec i s = .next t) : SessionKept s t := by
  by_cases ha : s.fsm = .negWait → i ≠ .close ∧ ∀ both, i ≠ .reset both
  · cases (exec_busy hs hc ha).symm.trans h
    exact ⟨rfl, rfl, rfl⟩
  · obtain ⟨hw, hi⟩ : s.fsm = .negWait ∧ (i = .close ∨ ∃ both, i = .reset both) := by grind
    rcases hi with rfl | ⟨both, rfl⟩
    · cases (execClose_negWait hw).symm.trans h
      exact ⟨rfl, rfl, rfl⟩
    · cases (execReset_negWait both hw).symm.trans h
      exact ⟨rfl, rfl, rfl⟩

/-- A CMD write keeps OPEN, HWF and the results but for what a command does at BUSY = 0. -/
theorem State.cmdWrite_effect {v : Word} (h : s.cmdWrite v = .next t) :
    SessionKept s t ∨ ∃ i, v = firstWord i ∧ s.fsm = .idle ∧ CmdEffect i s t := by
  cases hd : decodeCmd v with
  | ok i =>
    have hx : exec i s = .next t := by simpa only [State.cmdWrite, hd] using h
    by_cases hs : s.fsm = .idle
    · exact .inr ⟨i, firstWord_of_decodeCmd hd, hs, exec_idle_effect hs hx⟩
    · exact .inl (exec_busy_kept hs hd hx)
  | error x =>
    simp only [State.cmdWrite, hd, State.illegalCmd, State.atIdle, Host.Outcome.next.injEq] at h
    subst h
    split <;> exact .inl ⟨rfl, rfl, rfl⟩

/-! ### The other turns -/

theorem State.writeReg_kept (r : Reg) (v : Word) (s : State) : SessionKept s (s.writeReg r v) := by
  have harg : ∀ f, SessionKept s (s.writeArg f) := fun f => by
    simp only [State.writeArg]
    split <;> exact ⟨rfl, rfl, rfl⟩
  cases r
  case status | irqPend => simp only [State.writeReg]; split <;> exact ⟨rfl, rfl, rfl⟩
  case id0 | id1 | id2 | id3 | addr | len => simp only [State.writeReg, harg]
  all_goals exact ⟨rfl, rfl, rfl⟩

theorem State.hostRead_kept (acc : Access) (s : State) : SessionKept s (s.hostRead acc) := by
  rw [State.hostRead_eq]
  exact ⟨rfl, rfl, rfl⟩

/-- An act of the host keeps OPEN, HWF and the results but for a CMD write. -/
theorem State.hostAct_effect {a : HostAct} {rest : List HostAct} (h : s.hostAct a rest = .next t) :
    SessionKept s t ∨ ∃ v, a = .regWrite (Access.at32 0x00) v ∧ (s.hostWrote rest).cmdWrite v = .next t := by
  cases a with
  | regRead acc =>
    simp only [State.hostAct] at h
    split at h <;> cases h
    · exact .inl (.trans (t := s.setHostProg rest) ⟨rfl, rfl, rfl⟩ (State.hostRead_kept acc _))
    · exact .inl ⟨rfl, rfl, rfl⟩
  | regWrite acc v =>
    simp only [State.hostAct] at h
    split at h
    · rename_i hwf
      rcases State.writeOffset_cases h with ⟨_, rfl⟩ | ⟨hr, h⟩ | ⟨r, _, _, rfl⟩
      · exact .inl ⟨rfl, rfl, rfl⟩
      · obtain ⟨size, offset⟩ := acc
        obtain ⟨hsize, _⟩ := accessWf_iff.1 hwf
        cases hsize
        cases offset_of_regAt_cmd hr
        exact .inr ⟨v, rfl, h⟩
      · exact .inl (.trans (t := s.hostWrote rest) ⟨rfl, rfl, rfl⟩ (State.writeReg_kept r v _))
    · cases h
      exact .inl ⟨rfl, rfl, rfl⟩
  | poll acc mask value =>
    simp only [State.hostAct] at h
    split at h
    · split at h <;> cases h
      · exact .inl (.trans (t := s.setHostProg rest) ⟨rfl, rfl, rfl⟩ (State.hostRead_kept acc _))
      · exact .inl (State.hostRead_kept acc s)
    · cases h
      exact .inl ⟨rfl, rfl, rfl⟩
  | load | store | load32 | store32 | loadAcq | storeRel =>
    cases h
    exact .inl ⟨by simp, by simp, by simp⟩

theorem State.partnerTurn_kept (s : State) : SessionKept s s.partnerTurn := by
  simp only [State.partnerTurn]
  split
  · exact ⟨rfl, rfl, rfl⟩
  · rename_i a rest _
    cases a
    case push | signal => simp only [State.partnerAct]; split <;> exact ⟨rfl, rfl, rfl⟩
    all_goals exact ⟨rfl, rfl, rfl⟩

theorem State.deliverToIrbc_kept (n : Nat) (s : State) : SessionKept s (s.deliverToIrbc n) := by
  simp only [State.deliverToIrbc, State.partnerEvent_eq]
  split <;> exact ⟨rfl, rfl, rfl⟩

theorem State.deliverToPartner_kept (n : Nat) (s : State) : SessionKept s (s.deliverToPartner n) := by
  simp only [State.deliverToPartner]
  split <;> exact ⟨rfl, rfl, rfl⟩

theorem State.timeoutEvent_kept (s : State) : SessionKept s s.timeoutEvent := by
  simp only [State.timeoutEvent]
  split <;> exact ⟨rfl, rfl, rfl⟩

/-! ### The step -/

/-- The invariant of the socket does not depend on the schedule. -/
theorem SocketInv.setSched (h : SocketInv s) (ts : List Turn) : SocketInv (s.setSched ts) :=
  h.frame (s.setSched ts).env s.ghost s.results s.mbx s.mem s.args s.xfer s.status.ovr

/-- What a step does to OPEN, HWF and the results: what the controller's step does, or a CMD write at BUSY = 0, or the
reset input; every other step keeps them. -/
theorem step_effect (hi : SocketInv s) (h : step s = .next t) :
    (∃ ch ts, s.controllerMoves ch ∧ CtlEffect (s.setSched ts) t) ∨
    (∃ i ts rest, s.hostWritesCmd (firstWord i) ∧ s.fsm = .idle ∧
      CmdEffect i ((s.setSched ts).hostWrote rest) t) ∨
    (s.resetMoves ∧ ∃ u : State, t = u.resetRegisters) ∨ SessionKept s t := by
  rcases step_cases h with ⟨hs, h⟩ | ⟨turn, ts, hs, h⟩
  · exact .inl ⟨_, s.env.sched, .inl ⟨hs, rfl⟩, State.controllerTurn_effect hi h⟩
  have hsched : SessionKept s (s.setSched ts) := ⟨rfl, rfl, rfl⟩
  cases turn with
  | controller c => exact .inl ⟨c, ts, .inr ⟨ts, hs⟩, State.controllerTurn_effect (hi.setSched ts) h⟩
  | host =>
    simp only [State.takeTurn, State.hostTurn] at h
    split at h
    · cases h
      exact .inr (.inr (.inr hsched))
    · rename_i a rest hprog
      rcases State.hostAct_effect h with hk | ⟨v, rfl, hw⟩
      · exact .inr (.inr (.inr (hsched.trans hk)))
      · rcases State.cmdWrite_effect hw with hk | ⟨i, rfl, hf, hc⟩
        · exact .inr (.inr (.inr (hsched.trans ⟨hk.isOpen, hk.hwf, hk.results⟩)))
        · exact .inr (.inl ⟨i, ts, rest, ⟨ts, rest, hs, hprog⟩, hf, hc⟩)
  | partner => cases h; exact .inr (.inr (.inr (hsched.trans (State.partnerTurn_kept _))))
  | deliverToIrbc n => cases h; exact .inr (.inr (.inr (hsched.trans (State.deliverToIrbc_kept n _))))
  | deliverToPartner n => cases h; exact .inr (.inr (.inr (hsched.trans (State.deliverToPartner_kept n _))))
  | timeout => cases h; exact .inr (.inr (.inr (hsched.trans (State.timeoutEvent_kept _))))
  | reset => cases h; exact .inr (.inr (.inl ⟨⟨ts, hs⟩, _, rfl⟩))


/-! ### OPEN -/

/-- The controller sets OPEN only where an OPEN's negotiation succeeds. -/
theorem CtlEffect.opens (hi : SocketInv s) (hc : CtlEffect s t) (hs : s.status.isOpen = false)
    (ht : t.status.isOpen = true) : s.fsm = .negWait ∧ s.neg.kind = .openCmd ∧ NegSucceeds s t := by
  cases hc with
  | kept h => simp [h.isOpen, hs] at ht
  | negSucceeds hf ha h =>
    refine ⟨hf, ?_, h⟩
    by_contra hk
    simp [h.status, hk, hs] at ht
  | negAborts hf ha h =>
    subst h
    rcases hi.abortLegal ha with hw | ⟨both, hw⟩
    · simp [(State.negAbort_close hw).1] at ht
    · simp [State.negAbort_reset both hw (hi.closed_of_openCmd hf), hs] at ht
  | hwfEnds hf h => simp [h.isOpen, hs] at ht
  | readEnds hf hcmd hp h => simp [h, hs] at ht

/-- The controller clears OPEN only where it runs the abort of a CLOSE. -/
theorem CtlEffect.closes (hi : SocketInv s) (hc : CtlEffect s t) (hs : s.status.isOpen = true)
    (ht : t.status.isOpen = false) :
    s.fsm = .negWait ∧ s.neg.abortReq = true ∧ s.neg.abortCmd = firstWord .close ∧ t = s.negAbort := by
  cases hc with
  | kept h => simp [h.isOpen, hs] at ht
  | negSucceeds hf ha h => simp [h.status, hs] at ht
  | negAborts hf ha h =>
    rcases hi.abortLegal ha with hw | ⟨both, hw⟩
    · exact ⟨hf, ha, hw, h⟩
    · simp [h, State.negAbort_reset both hw (hi.closed_of_openCmd hf), hs] at ht
  | hwfEnds hf h => simp [h.isOpen, hs] at ht
  | readEnds hf hcmd hp h => simp [h, hs] at ht

/-- No CMD write sets OPEN: an OPEN's negotiation is still to come. -/
theorem CmdEffect.open_of_open {i : Instr} (hc : CmdEffect i s t) (ht : t.status.isOpen = true) :
    s.status.isOpen = true := by
  cases hc with
  | kept h => exact h.isOpen ▸ ht
  | closes hi h => simp [h] at ht
  | resets both hi h => simpa [h] using ht
  | negPends hi ho h => exact ho

/-- The CMD write that clears OPEN is CLOSE's. -/
theorem CmdEffect.eq_close {i : Instr} (hc : CmdEffect i s t) (hs : s.status.isOpen = true)
    (ht : t.status.isOpen = false) :
    i = .close ∧ t = ((s.setLopc 0x2).acceptCmd .close).closeEffects.complete := by
  cases hc with
  | kept h => simp [h.isOpen, hs] at ht
  | closes hi h => exact ⟨hi, h⟩
  | resets both hi h => simp [h, hs] at ht
  | negPends hi ho h => simp [h, State.negPendResult, hs] at ht

/-- Settles O55: OPEN is set where an OPEN's negotiation succeeds and cleared by CLOSE, its abort and reset; every other
effect of a step keeps it. -/
theorem openChangesOnlyByOpenCloseReset : Obligations.OpenChangesOnlyByOpenCloseReset := by
  unfold Obligations.OpenChangesOnlyByOpenCloseReset
  refine fun s t hinv h => ⟨fun hs ht => ?_, fun hs ht => ?_⟩
  · rcases step_effect hinv.socket h with ⟨ch, ts, hm, hc⟩ | ⟨i, ts, rest, hw, hf, hc⟩ | ⟨hr, u, rfl⟩ | hk
    · obtain ⟨hf, hkind, hsucc⟩ := hc.opens (hinv.socket.setSched ts) hs ht
      have hlopc : s.status.lopc = 0x1 := (hinv.lopc.waiting hf).trans (congrArg NegKind.opc hkind)
      exact ⟨⟨ch, hm⟩, hf, hkind, hsucc.fsm, by simp [hsucc.status, hlopc]⟩
    · exact absurd (hc.open_of_open ht) (by simp [hs])
    · cases ht
    · simp [hk.isOpen, hs] at ht
  · rcases step_effect hinv.socket h with ⟨ch, ts, hm, hc⟩ | ⟨i, ts, rest, hw, hf, hc⟩ | ⟨hr, u, rfl⟩ | hk
    · obtain ⟨hf, ha, hcmd, rfl⟩ := hc.closes (hinv.socket.setSched ts) hs ht
      obtain ⟨hst, hrings, hirq⟩ := State.negAbort_close hcmd
      exact ⟨hrings, hirq, by simp [hst], by simp [hst], (State.negAbort_ends _).1, by simp [hst], by simp [hst],
        .inr (.inl ⟨⟨ch, hm⟩, hf, ha, hcmd, by simp [hst]⟩)⟩
    · obtain ⟨rfl, rfl⟩ := hc.eq_close hs ht
      exact ⟨rfl, rfl, rfl, rfl, rfl, rfl, rfl, .inl ⟨hw, hf, rfl⟩⟩
    · exact ⟨rfl, rfl, rfl, rfl, rfl, rfl, rfl, .inr (.inr hr)⟩
    · simp [hk.isOpen, hs] at ht

/-! ### The result registers -/

/-- The controller changes the results only where a READ signals and completes. -/
theorem CtlEffect.readEnds_of_results (hc : CtlEffect s t) (hne : t.results ≠ s.results) :
    s.fsm = .exec ∧ s.xfer.cmd = .read ∧ s.xfer.phase = .signal ∧ t = s.signalPartner.readResults.complete := by
  cases hc with
  | kept h => exact absurd h.results hne
  | negSucceeds hf ha h => exact absurd h.results hne
  | negAborts hf ha h => exact absurd (h ▸ s.negAbort_ends.2) hne
  | hwfEnds hf h => exact absurd h.results hne
  | readEnds hf hcmd hp h => exact ⟨hf, hcmd, hp, h⟩

/-- The CMD write that changes the results is NEGPEND's, on an open socket. -/
theorem CmdEffect.eq_negPend {i : Instr} (hc : CmdEffect i s t) (hne : t.results ≠ s.results) :
    i = .negPend ∧ s.status.isOpen = true ∧ t = ((s.setLopc 0x3).acceptCmd .negPend).negPendResult := by
  cases hc with
  | kept h => exact absurd h.results hne
  | closes hi h => exact absurd (by rw [h]; rfl) hne
  | resets both hi h => exact absurd (by rw [h]; rfl) hne
  | negPends hi ho h => exact ⟨hi, ho, h⟩

/-- Settles O56: of the effects of a step only the end of a READ, NEGPEND's and reset's reach the result registers. -/
theorem resultsChangeOnlyOnSuccess : Obligations.ResultsChangeOnlyOnSuccess := by
  unfold Obligations.ResultsChangeOnlyOnSuccess
  intro s t hinv h hne
  rcases step_effect hinv.socket h with ⟨ch, ts, hm, hc⟩ | ⟨i, ts, rest, hw, hf, hc⟩ | ⟨hr, u, rfl⟩ | hk
  · obtain ⟨hf, hcmd, hp, rfl⟩ := hc.readEnds_of_results hne
    have hlopc : s.status.lopc = 0x7 := (hinv.lopc.running hf).trans (congrArg XferCmd.opc hcmd)
    exact .inl ⟨⟨ch, hm⟩, hf, hcmd, hp, rfl, rfl, hlopc⟩
  · obtain ⟨rfl, ho, rfl⟩ := hc.eq_negPend hne
    exact .inr (.inl ⟨hw, hf, ho, rfl, rfl, rfl⟩)
  · exact .inr (.inr hr)
  · exact absurd hk.results hne

/-! ### HWF -/

/-- The controller sets HWF only where a WRITE or READ ends with a HardwareState error. -/
theorem CtlEffect.setsHwf (hi : SocketInv s) (hc : CtlEffect s t) (hs : s.status.hwf = false)
    (ht : t.status.hwf = true) : s.fsm = .exec ∧ HwfEnds s t := by
  cases hc with
  | kept h => simp [h.hwf, hs] at ht
  | negSucceeds hf ha h => simp [h.status] at ht
  | negAborts hf ha h =>
    subst h
    rcases hi.abortLegal ha with hw | ⟨both, hw⟩
    · simp [(State.negAbort_close hw).1] at ht
    · simp [State.negAbort_reset both hw (hi.closed_of_openCmd hf)] at ht
  | hwfEnds hf h => exact ⟨hf, h⟩
  | readEnds hf hcmd hp h => simp [h, hs] at ht

/-- The controller clears HWF only where a negotiation ends, with success or by its abort. -/
theorem CtlEffect.clearsHwf (hc : CtlEffect s t) (hs : s.status.hwf = true) (ht : t.status.hwf = false) :
    s.fsm = .negWait ∧
      ((s.neg.abortReq = false ∧ NegSucceeds s t) ∨ (s.neg.abortReq = true ∧ t = s.negAbort)) := by
  cases hc with
  | kept h => simp [h.hwf, hs] at ht
  | negSucceeds hf ha h => exact ⟨hf, .inl ⟨ha, h⟩⟩
  | negAborts hf ha h => exact ⟨hf, .inr ⟨ha, h⟩⟩
  | hwfEnds hf h => simp [h.hwf] at ht
  | readEnds hf hcmd hp h => simp [h, hs] at ht

/-- No CMD write sets HWF. -/
theorem CmdEffect.hwf_of_hwf {i : Instr} (hc : CmdEffect i s t) (ht : t.status.hwf = true) : s.status.hwf = true := by
  cases hc with
  | kept h => exact h.hwf ▸ ht
  | closes hi h => simp [h] at ht
  | resets both hi h => simp [h] at ht
  | negPends hi ho h => simpa [h, State.negPendResult] using ht

/-- A CMD write that clears HWF is one of CLOSE or RESET, and completes OK. -/
theorem CmdEffect.clearsHwf {i : Instr} (hc : CmdEffect i s t) (hs : s.status.hwf = true) (ht : t.status.hwf = false) :
    (i = .close ∨ ∃ both, i = .reset both) ∧ t.fsm = .idle ∧ t.status.err = .ok ∧ t.status.detail = .none := by
  cases hc with
  | kept h => simp [h.hwf, hs] at ht
  | closes hi h => exact ⟨.inl hi, by simp [h]⟩
  | resets both hi h => exact ⟨.inr ⟨both, hi⟩, by simp [h]⟩
  | negPends hi ho h => simp [h, State.negPendResult, hs] at ht

/-- NEG_ABORT completes OK. -/
theorem State.negAbort_ok (s : State) : s.negAbort.status.err = .ok ∧ s.negAbort.status.detail = .none := by
  rw [State.negAbort_eq]
  split <;> exact ⟨rfl, rfl⟩

/-- The words of CLOSE and RESET (`30_encoding.md` R65). -/
theorem firstWord_recovery {P : Word → Prop} (h : P (firstWord .close) ∨ ∃ both, P (firstWord (.reset both))) :
    P 0x00000002 ∨ P 0x00000005 ∨ P 0x00000015 := by
  rcases h with h | ⟨_ | _, h⟩
  · exact .inl h
  · exact .inr (.inl h)
  · exact .inr (.inr h)

/-- Settles O57: HWF is set where a WRITE or READ ends with it and cleared where a negotiation succeeds or is aborted, by
CLOSE, RESET and reset; every other effect of a step keeps it. -/
theorem hwfLatchesUntilRecovery : Obligations.HwfLatchesUntilRecovery := by
  unfold Obligations.HwfLatchesUntilRecovery
  refine fun s t hinv h => ⟨fun hs hf => ?_, fun hs ht => ?_, fun hs ht => ?_⟩
  · obtain ⟨_, _, hclear⟩ := hinv.socket.execReady hf
    simp [hclear] at hs
  · rcases step_effect hinv.socket h with ⟨ch, ts, hm, hc⟩ | ⟨i, ts, rest, hw, hf, hc⟩ | ⟨hr, u, rfl⟩ | hk
    · obtain ⟨hf, hend⟩ := hc.setsHwf (hinv.socket.setSched ts) hs ht
      exact ⟨⟨ch, hm⟩, hf, hend.fsm, hend.err⟩
    · exact absurd (hc.hwf_of_hwf ht) (by simp [hs])
    · cases ht
    · simp [hk.hwf, hs] at ht
  · rcases step_effect hinv.socket h with ⟨ch, ts, hm, hc⟩ | ⟨i, ts, rest, hw, hf, hc⟩ | ⟨hr, u, rfl⟩ | hk
    · obtain ⟨hf, ⟨ha, hsucc⟩ | ⟨ha, rfl⟩⟩ := hc.clearsHwf hs ht
      · exact ⟨hsucc.fsm, by simp [hsucc.status], by simp [hsucc.status],
          .inl ⟨⟨ch, hm⟩, hf, ha, by simp [hsucc.status]⟩⟩
      · obtain ⟨herr, hdetail⟩ := (s.setSched ts).negAbort_ok
        have hword := firstWord_recovery (P := (s.neg.abortCmd = ·)) (hinv.socket.abortLegal ha)
        exact ⟨(State.negAbort_ends _).1, herr, hdetail, .inr (.inr (.inl ⟨⟨ch, hm⟩, hf, ha, hword⟩))⟩
    · obtain ⟨hcmd, hidle, herr, hdetail⟩ := hc.clearsHwf hs ht
      have hwrite : s.hostWritesCmd (firstWord .close) ∨ ∃ both, s.hostWritesCmd (firstWord (.reset both)) := by
        rcases hcmd with rfl | ⟨both, rfl⟩
        · exact .inl hw
        · exact .inr ⟨both, hw⟩
      have hword := firstWord_recovery (P := s.hostWritesCmd) hwrite
      exact ⟨hidle, herr, hdetail, .inr (.inl ⟨hf, hword⟩)⟩
    · exact ⟨rfl, rfl, rfl, .inr (.inr (.inr hr))⟩
    · simp [hk.hwf, hs] at ht

end Sys2Proof.Machine
end

section
/-! PROOFS. What one controller step of a running WRITE or READ is, said once for both commands, and from it what the
step keeps and which bytes it writes; with them the statements on bus errors and on the bytes a controller step may
change. -/

namespace Sys2Proof.Machine

variable {s t u : State} {c : CtlChoice}

/-! ### The running command -/

/-- The ring the running command works on: WRITE's local ring, READ's remote one (`40_descriptor.md` R85). -/
def State.cmdRing (s : State) : RingView :=
  match s.xfer.cmd with
  | .write => s.localRing
  | .read => s.remoteRing

/-- The cursor word that the running command acquires (`43_write.md` R116, `44_read.md` R129). -/
def State.peerCursor (s : State) : Word :=
  match s.xfer.cmd with
  | .write => s.rings.lbase + 4
  | .read => s.rings.rbase

/-- The cursor word that the running command publishes (`43_write.md` R124, `44_read.md` R139). -/
def State.ownCursor (s : State) : Word :=
  match s.xfer.cmd with
  | .write => s.rings.lbase
  | .read => s.rings.rbase + 4

/-- The bytes that the running command's data accesses write (`43_write.md` R120, `44_read.md` R137). -/
def State.cmdTargets (s : State) : List Word :=
  match s.xfer.cmd with
  | .write => s.writeTargets
  | .read => s.readTargets

/-- How the checks after a load end in state `u`: the command ends with an error, or goes on to READ's length field or
to the data accesses. -/
inductive LoadEnds (p : Phase) (u : State) : State → Prop where
  | raises (d : Detail) : LoadEnds p u (u.raise d)
  | faults (d : Detail) : LoadEnds p u (u.raiseHwf d)
  | toLength (hp : p = .loadOwn) : LoadEnds p u (u.setPhase .loadLen)
  | toData (todo : List DataOp) (pos : Nat) : LoadEnds p u (u.startData todo pos)

/-- The kind of the read that a phase after the acquire makes (`20_memory.md` R50). -/
inductive LoadKind : Phase → EventKind → Prop where
  | own : LoadKind .loadOwn .plainRead
  | len : LoadKind .loadLen .lenRead

/-- What one step of a running WRITE or READ can be (`43_write.md` R114, `44_read.md` R127, `20_memory.md` R59). -/
inductive ExecStep (s : State) (c : CtlChoice) : State → Prop where
  | busFails (hp : s.xfer.phase ≠ .publish) : ExecStep s c s.busFail
  | acquires (keep : Word → Xfer → Xfer) (hp : s.xfer.phase = .loadPeer) (hb : c.busError = false)
      (hk : ∀ v x, (keep v x).cmd = x.cmd ∧ (keep v x).phase = .loadOwn) :
      ExecStep s c (s.loadWord .acqRead s.cmdRing c.race s.peerCursor keep)
  | loads {k : EventKind} (a : Word) (keep : Word → Xfer → Xfer) {t : State} (hp : LoadKind s.xfer.phase k)
      (hb : c.busError = false) (hk : ∀ v x, (keep v x).cmd = x.cmd)
      (ht : LoadEnds s.xfer.phase (s.loadWord k s.cmdRing c.race a keep) t) : ExecStep s c t
  | performs (i : Nat) {op : DataOp} (hp : s.xfer.phase = .data) (hb : c.busError = false) (hop : op ∈ s.xfer.todo) :
      ExecStep s c (s.performOp (c.race.getLsbD 0) i op)
  | publishFails (hp : s.xfer.phase = .publish) :
      ExecStep s c
        (s.storeBytes .controller .plainWrite s.ownCursor (wordBytes (fun _ => Mark.clear) s.freeWord)).busFail
  | publishes (m : Nat → Mark) (v : Word) (hp : s.xfer.phase = .publish) (hb : c.busError = false) :
      ExecStep s c ((s.storeBytes .controller .relWrite s.ownCursor (wordBytes m v)).setPhase .signal)
  | signals (r : Results) (hp : s.xfer.phase = .signal) :
      ExecStep s c { s.signalPartner.complete with results := r }

/-- A primitive that may get an error response. -/
theorem ExecStep.ite_busFail (hp : s.xfer.phase ≠ .publish) (h : c.busError = false → ExecStep s c t) :
    ExecStep s c (if c.busError then s.busFail else t) := by
  cases hb : c.busError with
  | true => exact .busFails hp
  | false => exact h hb

/-- A data access with one pending. -/
theorem ExecStep.dataStep (hp : s.xfer.phase = .data) (htodo : s.xfer.todo ≠ []) : ExecStep s c (s.dataStep c) := by
  obtain ⟨i, op, _, hget, heq⟩ := State.dataStep_cases c htodo
  rw [heq]
  exact .ite_busFail (by simp [hp]) fun hb => .performs i hp hb (List.mem_of_getElem? hget)

/-- The publish of the running command. -/
theorem ExecStep.publishStep {g : RingView} {a : Word} (v : Word) (hp : s.xfer.phase = .publish)
    (ha : a = s.ownCursor) : ExecStep s c (s.publishStep c g a v) := by
  subst ha
  rcases s.publishStep_cases c g s.ownCursor v with ⟨_, h⟩ | ⟨hb, h⟩ <;> rw [h]
  · exact .publishFails hp
  · exact .publishes _ _ hp hb

theorem State.writeLoadOwn_ends (race : BitVec 4) (s : State) : ∃ keep : Word → Xfer → Xfer,
    (∀ v x, (keep v x).cmd = x.cmd) ∧
      LoadEnds .loadOwn (s.loadWord .plainRead s.localRing race s.localRing.widxAddr keep) (s.writeLoadOwn race) := by
  refine ⟨fun v x => { x with w := v }, fun _ _ => rfl, ?_⟩
  simp only [State.writeLoadOwn]
  split
  · exact .faults _
  · split
    · exact .raises _
    · exact .toData _ _

theorem State.readLoadOwn_ends (race : BitVec 4) (s : State) : ∃ keep : Word → Xfer → Xfer,
    (∀ v x, (keep v x).cmd = x.cmd) ∧
      LoadEnds .loadOwn (s.loadWord .plainRead s.remoteRing race s.remoteRing.ridxAddr keep) (s.readLoadOwn race) := by
  refine ⟨fun v x => { x with r := v }, fun _ _ => rfl, ?_⟩
  simp only [State.readLoadOwn]
  split
  · exact .faults _
  · split
    · exact .raises _
    · split
      · exact .raises _
      · exact .toLength rfl

theorem State.readLoadLen_ends (race : BitVec 4) (s : State) : ∃ (a : Word) (keep : Word → Xfer → Xfer),
    (∀ v x, (keep v x).cmd = x.cmd) ∧
      LoadEnds .loadLen (s.loadWord .lenRead s.remoteRing race a keep) (s.readLoadLen race) := by
  refine ⟨s.remoteRing.dataAddr s.cfg.rbHdrSize s.xfer.r.toNat, fun v x => { x with len := v }, fun _ _ => rfl, ?_⟩
  simp only [State.readLoadLen]
  split
  · exact .raises _
  · split
    · exact .raises _
    · exact .toData _ _

/-- One step of a running WRITE. -/
theorem State.writeStep_exec (c : CtlChoice) (hx : XferInv s) (hf : s.fsm = .exec) (hc : s.xfer.cmd = .write) :
    ExecStep s c (s.writeStep c) := by
  have hring : s.localRing = s.cmdRing := by simp only [State.cmdRing, hc]
  obtain ⟨_, _, hdata⟩ := hx hf
  obtain ⟨hlen, _⟩ := hx.write hf hc
  simp only [State.writeStep]
  split
  · rename_i hp
    refine .ite_busFail (by simp [hp]) fun hb => ?_
    have ha : s.localRing.ridxAddr = s.peerCursor := by simp only [RingView.ridxAddr_eq, State.peerCursor, hc]; rfl
    simp only [State.writeLoadPeer, ha]
    exact hring ▸ .acquires _ hp hb fun _ _ => ⟨rfl, rfl⟩
  · rename_i hp
    refine .ite_busFail (by simp [hp]) fun hb => ?_
    obtain ⟨keep, hk, hends⟩ := s.writeLoadOwn_ends c.race
    exact .loads _ keep (hp ▸ .own) hb hk (hp ▸ hring ▸ hends)
  · exact absurd ‹_› hlen
  · exact .dataStep ‹_› (hdata.1 ‹_›)
  · exact .publishStep _ ‹_› (by simp only [RingView.widxAddr_eq, State.ownCursor, hc]; rfl)
  · exact .signals s.results ‹_›

/-- One step of a running READ. -/
theorem State.readStep_exec (c : CtlChoice) (hx : XferInv s) (hf : s.fsm = .exec) (hc : s.xfer.cmd = .read) :
    ExecStep s c (s.readStep c) := by
  have hring : s.remoteRing = s.cmdRing := by simp only [State.cmdRing, hc]
  obtain ⟨_, _, hdata⟩ := hx hf
  simp only [State.readStep]
  split
  · rename_i hp
    refine .ite_busFail (by simp [hp]) fun hb => ?_
    have ha : s.remoteRing.widxAddr = s.peerCursor := by simp only [RingView.widxAddr_eq, State.peerCursor, hc]; rfl
    simp only [State.readLoadPeer, ha]
    exact hring ▸ .acquires _ hp hb fun _ _ => ⟨rfl, rfl⟩
  · rename_i hp
    refine .ite_busFail (by simp [hp]) fun hb => ?_
    obtain ⟨keep, hk, hends⟩ := s.readLoadOwn_ends c.race
    exact .loads _ keep (hp ▸ .own) hb hk (hp ▸ hring ▸ hends)
  · rename_i hp
    refine .ite_busFail (by simp [hp]) fun hb => ?_
    obtain ⟨a, keep, hk, hends⟩ := s.readLoadLen_ends c.race
    exact .loads a keep (hp ▸ .len) hb hk (hp ▸ hring ▸ hends)
  · exact .dataStep ‹_› (hdata.1 ‹_›)
  · exact .publishStep _ ‹_› (by simp only [RingView.ridxAddr_eq, State.ownCursor, hc]; rfl)
  · exact .signals _ ‹_›

/-- In EXEC the controller's step is one of the running command. -/
theorem State.controllerTurn_exec (c : CtlChoice) (hx : XferInv s) (hf : s.fsm = .exec) :
    ∃ t, s.controllerTurn c = .next t ∧ ExecStep s c t := by
  cases hc : s.xfer.cmd with
  | write => exact ⟨_, by simp only [State.controllerTurn, hf, hc], State.writeStep_exec c hx hf hc⟩
  | read => exact ⟨_, by simp only [State.controllerTurn, hf, hc], State.readStep_exec c hx hf hc⟩

/-! ### What a step of a running command keeps -/

/-- What every step of a WRITE or READ keeps, the session's registers and the entries among it, and what it keeps of the
rest when the command goes on and when it ends (`20_memory.md` R60, `10_state.md` R17, R21, R22). -/
structure ExecKept (s t : State) : Prop where
  cfg : t.cfg = s.cfg
  args : t.args = s.args
  env : t.env = s.env
  irq : t.irq = s.irq
  rings : t.rings = s.rings
  neg : t.neg = s.neg
  inbound : t.mbx.inbound = s.mbx.inbound
  entered : t.ghost.entered = s.ghost.entered
  cmdNo : t.ghost.cmdNo = s.ghost.cmdNo
  isOpen : t.status.isOpen = s.status.isOpen
  rv : t.status.rv = s.status.rv
  ovr : t.status.ovr = s.status.ovr
  lopc : t.status.lopc = s.status.lopc
  goesOn : t.fsm = .exec → t.status = s.status ∧ t.results = s.results ∧ t.mbx = s.mbx ∧ t.xfer.cmd = s.xfer.cmd
  fsm : t.fsm = .exec ∨ t.fsm = .idle

/-- The checks after a load keep what a step of the command keeps. -/
theorem LoadEnds.kept {p : Phase} (h : LoadEnds p u t) (hu : ExecKept s u) (hf : u.fsm = .exec) : ExecKept s t := by
  obtain ⟨hcfg, hargs, henv, hirq, hrings, hneg, hin, hent, hno, ho, hrv, hov, hl, hgo, _⟩ := hu
  cases h with
  | raises d => exact ⟨hcfg, hargs, henv, hirq, hrings, hneg, hin, hent, hno, ho, hrv, hov, hl, nofun, .inr rfl⟩
  | faults d => exact ⟨hcfg, hargs, henv, hirq, hrings, hneg, hin, hent, hno, ho, hrv, hov, hl, nofun, .inr rfl⟩
  | toLength hp =>
    exact ⟨hcfg, hargs, henv, hirq, hrings, hneg, hin, hent, hno, ho, hrv, hov, hl,
      fun _ => hgo hf, .inl hf⟩
  | toData todo pos =>
    exact ⟨hcfg, hargs, henv, hirq, hrings, hneg, hin, hent, hno, ho, hrv, hov, hl,
      fun _ => hgo hf, .inl hf⟩

/-- A data access keeps what a step of the command keeps. -/
theorem State.performOp_execKept (race : Bool) (i : Nat) (op : DataOp) (hf : s.fsm = .exec) :
    ExecKept s (s.performOp race i op) := by
  cases op <;> constructor <;> simp [State.performOp, hf]

/-- A step of a WRITE or READ keeps the session and the environment. -/
theorem ExecStep.kept (h : ExecStep s c t) (hf : s.fsm = .exec) : ExecKept s t := by
  cases h with
  | busFails hp => constructor <;> simp
  | acquires keep hp hb hk => constructor <;> simp [hk, hf]
  | loads a keep hp hb hk ht =>
    refine ht.kept ?_ hf
    constructor <;> simp [hk, hf]
  | performs i hp hb hop => exact State.performOp_execKept _ i _ hf
  | publishFails hp => constructor <;> simp
  | publishes m v hp hb => constructor <;> simp [hf]
  | signals r hp => constructor <;> simp

/-! ### Which bytes it writes -/

/-- A pending data access writes only the command's own bytes. -/
theorem XferInv.target_mem (hx : XferInv s) (hf : s.fsm = .exec) (hp : s.xfer.phase = .data) {op : DataOp} {a : Word}
    (hop : op ∈ s.xfer.todo) (ha : op.target = some a) : a ∈ s.cmdTargets := by
  cases hc : s.xfer.cmd with
  | write =>
    obtain ⟨_, _, _, hrun⟩ := hx.write hf hc
    simpa only [State.cmdTargets, hc] using (hrun (.inl hp)).targets op hop a ha
  | read =>
    obtain ⟨_, hrun⟩ := hx.read hf hc
    simpa only [State.cmdTargets, hc] using (hrun (.inl hp)).targets op hop a ha

theorem LoadEnds.mem_eq {p : Phase} (h : LoadEnds p u t) : t.mem = u.mem := by
  cases h <;> rfl

/-- A step of a WRITE or READ leaves memory, or writes one byte of its own, or its cursor word. -/
theorem ExecStep.mem_cases (hx : XferInv s) (hf : s.fsm = .exec) (h : ExecStep s c t) :
    (t.mem = s.mem) ∨
    (c.busError = false ∧ ∃ a ∈ s.cmdTargets, ∃ b, t.mem = s.mem.write8 a b) ∨
    (s.xfer.phase = .publish ∧ ∃ v, t.mem = s.mem.writeBytes s.ownCursor (le32 v)) := by
  cases h with
  | busFails hp => exact .inl rfl
  | acquires keep hp hb hk => exact .inl rfl
  | loads a keep hp hb hk ht => exact .inl ht.mem_eq
  | performs i hp hb hop =>
    rename_i op
    cases op with
    | put dst b o =>
      refine .inr (.inl ⟨hb, dst, hx.target_mem hf hp hop rfl, s.byteWritten b 0 ⟨c.race.getLsbD 0, o⟩, ?_⟩)
      simp only [State.performOp, State.leave_mem, State.storeBytes_mem, List.map, Mem.writeBytes_singleton]
    | copy src dst srcOverlap dstOverlap => exact .inl rfl
    | header src k o => exact .inl rfl
  | publishFails hp => exact .inr (.inr ⟨hp, s.freeWord, by simp [State.busFail, State.raiseHwf]⟩)
  | publishes m v hp hb => exact .inr (.inr ⟨hp, v, by simp⟩)
  | signals r hp => exact .inl rfl

/-- A byte outside the cursor word is as before its write. -/
theorem Mem.read8_publish {m : Mem} (h : Mem.wf m = true) {a x v : Word} (hx : ∀ k < 4, x ≠ a + BitVec.ofNat 32 k) :
    (m.writeBytes a (le32 v)).read8 x = m.read8 x :=
  Mem.read8_writeBytes_of_not_inRun h a _ x hx

/-- A step of a WRITE or READ changes no byte but its targets' and its cursor word's. -/
theorem ExecStep.read8_eq (hi : MachineInv s) (hf : s.fsm = .exec) (h : ExecStep s c t) {a : Word}
    (ht : a ∉ s.cmdTargets) (hc : ∀ k < 4, a ≠ s.ownCursor + BitVec.ofNat 32 k) : t.mem.read8 a = s.mem.read8 a := by
  rcases h.mem_cases hi.xfer hf with hm | ⟨_, x, hx, b, hm⟩ | ⟨_, v, hm⟩ <;> rw [hm]
  · rw [Mem.read8_write8 hi.mem, if_neg]
    rintro rfl
    exact ht hx
  · exact Mem.read8_publish hi.mem hc

/-! ### The negotiation's step -/

/-- What every step of a waiting negotiation keeps (`42_negotiation.md` R101). -/
structure NegKept (s t : State) : Prop where
  cfg : t.cfg = s.cfg
  args : t.args = s.args
  env : t.env = s.env
  mem : t.mem = s.mem
  xfer : t.xfer = s.xfer

theorem State.negFail_negKept (d : Detail) (s : State) : NegKept s (s.negFail d) := by
  rw [State.negFail_eq]
  exact ⟨rfl, rfl, rfl, rfl, rfl⟩

theorem State.negAbort_negKept (s : State) : NegKept s s.negAbort := by
  rw [State.negAbort_eq]
  split <;> exact ⟨rfl, rfl, rfl, rfl, rfl⟩

/-- The third entry's judgement, and the recording of the others, change the negotiation and the session alone. -/
theorem State.takeEntry_negKept (e : Entry) (s : State) : NegKept s (s.takeEntry e) := by
  simp only [State.takeEntry]
  split
  · split
    · simp only [State.negEval]
      split
      · rw [State.negFail_eq]
        exact ⟨rfl, rfl, rfl, rfl, rfl⟩
      · rw [State.negSuccess_eq]
        exact ⟨rfl, rfl, rfl, rfl, rfl⟩
    · exact ⟨rfl, rfl, rfl, rfl, rfl⟩
  · exact ⟨rfl, rfl, rfl, rfl, rfl⟩
  · exact ⟨rfl, rfl, rfl, rfl, rfl⟩

/-- A step of a waiting negotiation changes no memory, no argument and nothing of the environment. -/
theorem State.negPop_negKept (h : s.negPop c = .next t) : NegKept s t := by
  rcases State.negPop_cases h with ⟨_, rfl⟩ | ⟨_, _, rfl⟩ | ⟨_, _, _, rfl⟩ | ⟨_, _, e, es, _, ⟨_, rfl⟩ | ⟨_, rfl⟩⟩
  · exact s.negAbort_negKept
  · exact s.negFail_negKept _
  · exact ⟨rfl, rfl, rfl, rfl, rfl⟩
  · rw [State.popFailed, State.negFail_eq]
    exact ⟨rfl, rfl, rfl, rfl, rfl⟩
  · obtain ⟨hcfg, hargs, henv, hmem, hxfer⟩ := (s.popped e es).takeEntry_negKept e
    exact ⟨hcfg, hargs, henv, hmem, hxfer⟩

/-! ### The statements -/

/-- A step before the signal that gets an error response ends the command with BUS_ERROR and HWF, and sends no signal
(`20_memory.md` R59). -/
theorem ExecStep.busFail_result (h : ExecStep s c t) (hb : c.busError = true) (hp : s.xfer.phase ≠ .signal) :
    t.fsm = .idle ∧ t.status = { s.status with hwf := true, err := .hardwareState, detail := .busError } ∧
      t.mbx = s.mbx ∧ t.results = s.results := by
  have hno : c.busError ≠ false := by simp [hb]
  cases h with
  | busFails => exact ⟨rfl, rfl, rfl, rfl⟩
  | acquires keep hp hb' => exact absurd hb' hno
  | loads a keep hp hb' => exact absurd hb' hno
  | performs i hp hb' => exact absurd hb' hno
  | publishFails => exact ⟨rfl, rfl, rfl, rfl⟩
  | publishes m v hp hb' => exact absurd hb' hno
  | signals r hp' => exact absurd hp' hp

/-- Settles O38: on an error response only the failing steps of the running command and the signal are possible. -/
theorem busErrorStopsTheTransfer : Obligations.BusErrorStopsTheTransfer := by
  unfold Obligations.BusErrorStopsTheTransfer
  intro s ch hi hf hp hb
  obtain ⟨t, ht, hstep⟩ := State.controllerTurn_exec ch hi.xfer hf
  obtain ⟨hidle, hstatus, hmbx, hresults⟩ := hstep.busFail_result hb hp
  have hk := hstep.kept hf
  refine ⟨t, ht, hidle, hstatus, hmbx, hk.rings, hk.args, hresults, hk.irq, fun hpub => ?_, fun _ a ha => ?_⟩
  · rcases hstep.mem_cases hi.xfer hf with hm | ⟨hclean, _⟩ | ⟨hpub', _⟩
    · exact hm
    · exact absurd hb (by simp [hclean])
    · exact absurd hpub' hpub
  · rcases hstep.mem_cases hi.xfer hf with hm | ⟨hclean, _⟩ | ⟨_, v, hm⟩
    · rw [hm]
    · exact absurd hb (by simp [hclean])
    · exact hm ▸ Mem.read8_publish hi.mem ha

/-- Settles O40: the steps of a running command by `ExecStep`, those of a negotiation by `negPop_negKept`. -/
theorem controllerWritesOnlyItsOwnBytes : Obligations.ControllerWritesOnlyItsOwnBytes := by
  unfold Obligations.ControllerWritesOnlyItsOwnBytes
  intro s t ch hi ht
  by_cases hf : s.fsm = .exec
  · obtain ⟨t', ht', hstep⟩ := State.controllerTurn_exec ch hi.xfer hf
    cases ht.symm.trans ht'
    have hk := hstep.kept hf
    refine ⟨hk.args, hk.cfg, hk.env, fun hn => absurd hf hn, fun _ hc a htarget hcursor => ?_,
      fun _ hc a htarget hcursor => ?_, fun _ => ⟨hk.irq, hk.rings, hk.neg, hk.goesOn, fun hn => ?_⟩⟩
    · refine hstep.read8_eq hi hf (fun hmem => ?_) (by simpa only [State.ownCursor, hc] using hcursor)
      simp only [State.cmdTargets, hc, State.writeTargets, List.mem_map, List.mem_range] at hmem
      obtain ⟨k, hk, rfl⟩ := hmem
      exact htarget k hk rfl
    · refine hstep.read8_eq hi hf (fun hmem => ?_) (by simpa only [State.ownCursor, hc] using hcursor)
      simp only [State.cmdTargets, hc, State.readTargets, List.mem_map, List.mem_range] at hmem
      obtain ⟨k, hk, rfl⟩ := hmem
      exact htarget k hk rfl
    · exact ⟨hk.fsm.resolve_left hn, hk.isOpen, hk.rv, hk.ovr, hk.lopc⟩
  · have hk : NegKept s t := by
      rcases State.controllerTurn_cases ht with ⟨_, rfl⟩ | ⟨_, h⟩ | ⟨he, _⟩ | ⟨he, _⟩
      · exact ⟨rfl, rfl, rfl, rfl, rfl⟩
      · exact State.negPop_negKept h
      · exact absurd he hf
      · exact absurd he hf
    exact ⟨hk.args, hk.cfg, hk.env, fun _ => hk.mem, fun he => absurd he hf, fun he => absurd he hf,
      fun he => absurd he hf⟩

end Sys2Proof.Machine
end

section
/-! PROOFS. What one step adds to the model's record (`20_memory.md` R49 to R52): its events with what they make of
memory, where they stand in the order, and the inbound FIFO's entries; and that a step so recorded keeps the order of
events. -/

namespace Sys2Proof.Machine

variable {s t u : State} {c : CtlChoice} {es fs : List Event} {e f : Event}

/-! ### Replaying events -/

theorem replay_append (es fs : List Event) (m : Mem) : replay (es ++ fs) m = replay es (replay fs m) := by
  induction es with
  | nil => rfl
  | cons e es ih => simp only [List.cons_append, replay, ih]

theorem readsAgree_append (es fs : List Event) (m : Mem) :
    readsAgree (es ++ fs) m ↔ readsAgree es (replay fs m) ∧ readsAgree fs m := by
  induction es with
  | nil => simp [readsAgree]
  | cons e es ih => simp only [List.cons_append, readsAgree, replay_append, ih, and_assoc]

/-- A byte of an event stands at its place in the event's run of addresses. -/
theorem Event.byteAt_some {a : Word} {b : EventByte} (h : e.byteAt a = some b) :
    ∃ k, a = e.addr + BitVec.ofNat 32 k ∧ e.bytes[k]? = some b := by
  refine ⟨(a - e.addr).toNat, ?_, h⟩
  rw [BitVec.ofNat_toNat, BitVec.setWidth_eq]
  bv_omega

/-- Every byte the event reads that is not free is memory's. -/
def Event.ReadsFrom (e : Event) (m : Mem) : Prop :=
  e.kind.reads = true → ∀ a b, e.byteAt a = some b → b.mark.free = false → b.val = m.read8 a

/-- The bytes of a word made of four bytes. -/
theorem byteOf_wordOfBytes (b0 b1 b2 b3 : Byte) :
    byteOf (wordOfBytes b0 b1 b2 b3) 0 = b0 ∧ byteOf (wordOfBytes b0 b1 b2 b3) 1 = b1 ∧
      byteOf (wordOfBytes b0 b1 b2 b3) 2 = b2 ∧ byteOf (wordOfBytes b0 b1 b2 b3) 3 = b3 := by
  refine ⟨?_, ?_, ?_, ?_⟩ <;> refine BitVec.eq_of_getLsbD_eq fun i hi => ?_ <;>
    simp only [byteOf, wordOfBytes, BitVec.getLsbD_extractLsb', hi] <;> grind

/-- The bytes of an access of a word made of four bytes. -/
theorem wordBytes_wordOfBytes (m : Nat → Mark) (b0 b1 b2 b3 : Byte) :
    wordBytes m (wordOfBytes b0 b1 b2 b3) = [⟨b0, m 0⟩, ⟨b1, m 1⟩, ⟨b2, m 2⟩, ⟨b3, m 3⟩] := by
  obtain ⟨h0, h1, h2, h3⟩ := byteOf_wordOfBytes b0 b1 b2 b3
  simp only [wordBytes, h0, h1, h2, h3]

/-- A one-byte read returns memory's byte where it is not free. -/
theorem State.byteRead_readsFrom (s : State) {m : Mark} (hb : e.bytes = [⟨s.byteRead e.addr 0 m, m⟩]) :
    e.ReadsFrom s.mem := by
  intro _ a b ha hfree
  obtain ⟨k, rfl, hk⟩ := Event.byteAt_some ha
  rw [hb] at hk
  obtain rfl : k = 0 := by simpa using (List.getElem?_eq_some_iff.1 hk).1
  cases hk
  simpa using State.byteRead_eq hfree e.addr 0 s

/-- A 32-bit read returns memory's bytes where they are not free. -/
theorem State.wordRead_readsFrom (s : State) {m : Nat → Mark} (hb : e.bytes = wordBytes m (s.wordRead e.addr m)) :
    e.ReadsFrom s.mem := by
  intro _ a b ha hfree
  obtain ⟨k, rfl, hk⟩ := Event.byteAt_some ha
  rw [hb, State.wordRead, wordBytes_wordOfBytes] at hk
  have hlt : k < 4 := (List.getElem?_eq_some_iff.1 hk).1
  interval_cases k <;> cases hk <;> exact (State.byteRead_eq hfree _ _ s).trans (by simp)

/-- A memory access that the machine records is one that `20_memory.md` R49 allows. -/
theorem State.access_wf {ag : Agent} {k : EventKind} {a : Word} {bs : List EventByte} (n : Nat)
    (hlen : bs.length ≤ 4) (hk : k.reads = true ∨ k.writes = true)
    (hcursor : k = .acqRead ∨ k = .relWrite → s.cursorAccess k a bs.length = true)
    (hctl : k = .lenRead → ag = .controller) : Event.Wf ⟨ag, n, k, a, bs, s.cursorAccess k a bs.length⟩ where
  distinct := le_trans hlen (by decide)
  cursorOnly := hcursor
  cursorWord := State.cursorAccess_shape
  pushes := fun _ h => by cases h; simp [EventKind.reads, EventKind.writes] at hk
  pops := fun _ h => by cases h; simp [EventKind.reads, EventKind.writes] at hk
  controls := fun h => h.elim (fun h => by cases h; simp [EventKind.reads, EventKind.writes] at hk) hctl
  registers := fun h => by rcases h with h | h <;> cases h <;> simp [EventKind.reads, EventKind.writes] at hk

/-! ### What a step records -/

/-- The step adds these events to the trace, and they account for memory (`20_memory.md` R49, R52). -/
structure Recorded (s t : State) (es : List Event) : Prop where
  trace : t.ghost.trace = es ++ s.ghost.trace
  mem : t.mem = replay es s.mem
  agrees : readsAgree es s.mem
  wf : ∀ e ∈ es, e.Wf

theorem Recorded.nil (htrace : t.ghost.trace = s.ghost.trace) (hmem : t.mem = s.mem) : Recorded s t [] :=
  ⟨htrace, hmem, trivial, nofun⟩

theorem Recorded.one (htrace : t.ghost.trace = e :: s.ghost.trace) (hmem : t.mem = e.apply s.mem)
    (hreads : e.ReadsFrom s.mem) (hwf : e.Wf) : Recorded s t [e] :=
  ⟨htrace, hmem, ⟨hreads, trivial⟩, fun _ h => List.mem_singleton.1 h ▸ hwf⟩

theorem Recorded.trans (h : Recorded s t es) (h' : Recorded t u fs) : Recorded s u (fs ++ es) where
  trace := by rw [h'.trace, h.trace, List.append_assoc]
  mem := by rw [h'.mem, h.mem, replay_append]
  agrees := (readsAgree_append _ _ _).2 ⟨h.mem ▸ h'.agrees, h.agrees⟩
  wf := fun e he => (List.mem_append.1 he).elim (h'.wf e) (h.wf e)

/-! ### The order of events -/

/-- What the events of a running command rank in a phase (`20_memory.md` R50). -/
def Phase.admits (p : Phase) (e : Event) : Prop :=
  match p with
  | .loadPeer => False
  | .loadOwn | .loadLen => e.kind.rank ≤ 2 ∧ ¬ (e.kind = .plainRead ∧ e.bytes.length = 1)
  | .data | .publish => e.kind.rank ≤ 2
  | .signal => e.kind.rank ≤ 3

/-- The event may be one that the running command has made, where the command stands (`TraceInv.before`). -/
def State.admits (s : State) (e : Event) : Prop :=
  match s.fsm with
  | .idle => True
  | .negWait => e.kind.rank = 0
  | .exec => s.xfer.phase.admits e

/-- The part of `TraceInv` on the order of events. -/
structure OrderInv (s : State) : Prop where
  ordered : traceOrdered s.ghost.trace
  begun : ∀ e ∈ s.ghost.trace, e.agent = .controller → e.cmdNo ≤ s.ghost.cmdNo
  seen : ∀ e ∈ s.ghost.trace, e.kind = .idleRead →
    e.cmdNo ≤ s.ghost.cmdNo ∧ (s.fsm ≠ .idle → e.cmdNo < s.ghost.cmdNo)
  before : ∀ e ∈ s.ghost.trace, e.agent = .controller → e.cmdNo = s.ghost.cmdNo → s.admits e

theorem traceInv_iff : TraceInv s ↔ (∀ e ∈ s.ghost.trace, e.Wf) ∧ OrderInv s ∧ EntryInv s := by
  have hadmits : ∀ e : Event, s.admits e ↔
      (s.fsm = .negWait → e.kind.rank = 0) ∧
      (s.fsm = .exec →
        (s.xfer.phase = .loadPeer → False) ∧
        (s.xfer.phase = .loadOwn ∨ s.xfer.phase = .loadLen ∨ s.xfer.phase = .data ∨ s.xfer.phase = .publish →
          e.kind.rank ≤ 2) ∧
        (s.xfer.phase = .loadOwn ∨ s.xfer.phase = .loadLen → ¬ (e.kind = .plainRead ∧ e.bytes.length = 1)) ∧
        (s.xfer.phase = .signal → e.kind.rank ≤ 3)) := by
    intro e
    cases hf : s.fsm with
    | idle => simp [State.admits, hf]
    | negWait => simp [State.admits, hf]
    | exec => cases hp : s.xfer.phase <;> simp [State.admits, Phase.admits, hf, hp]
  constructor
  · intro h
    exact ⟨h.wf, ⟨h.ordered, h.begun, h.seen, fun e he ha hn => (hadmits e).2 (h.before e he ha hn)⟩, h.mailbox⟩
  · rintro ⟨hwf, ho, hm⟩
    exact ⟨hwf, ho.ordered, ho.begun, ho.seen, fun e he ha hn => (hadmits e).1 (ho.before e he ha hn), hm⟩

/-- Within one command the event is not ordered before the other (`20_memory.md` R50). -/
def Event.notBefore (e f : Event) : Prop :=
  f.kind.rank ≤ e.kind.rank ∧ ¬ (e.kind = .lenRead ∧ f.kind = .plainRead ∧ f.bytes.length = 1)

/-- The step begins a command: its only event is the host's CMD write, with the next number. -/
structure Begins (s t : State) (es : List Event) : Prop where
  cmdNo : t.ghost.cmdNo = s.ghost.cmdNo + 1
  events : ∃ e, es = [e] ∧ e.agent = .host ∧ e.kind = .cmdWrite ∧ e.cmdNo = s.ghost.cmdNo + 1

/-- The step begins no command: the running command's events come after those it admits, and those it admits next are at
least as many. -/
structure Continues (s t : State) (es : List Event) : Prop where
  cmdNo : t.ghost.cmdNo = s.ghost.cmdNo
  fsm : t.fsm ≠ .idle → s.fsm ≠ .idle
  events : ∀ e ∈ es, e.cmdNo = s.ghost.cmdNo ∧ e.kind ≠ .cmdWrite ∧ (e.kind = .idleRead → t.fsm = .idle)
  busy : ∀ e ∈ es, e.agent = .controller → s.fsm ≠ .idle
  admitted : ∀ e ∈ es, e.agent = .controller → t.admits e
  after : ∀ e ∈ es, e.agent = .controller → ∀ f, s.admits f → e.notBefore f
  admits : ∀ f, s.admits f → t.admits f
  ordered : traceOrdered es

theorem Continues.one (hno : t.ghost.cmdNo = s.ghost.cmdNo) (hfsm : t.fsm ≠ .idle → s.fsm ≠ .idle)
    (he : e.cmdNo = s.ghost.cmdNo ∧ e.kind ≠ .cmdWrite ∧ (e.kind = .idleRead → t.fsm = .idle))
    (hrun : e.agent = .controller → s.fsm ≠ .idle ∧ t.admits e ∧ ∀ f, s.admits f → e.notBefore f)
    (hadmits : ∀ f, s.admits f → t.admits f) : Continues s t [e] := by
  refine ⟨hno, hfsm, ?_, ?_, ?_, ?_, hadmits, List.pairwise_singleton _ _⟩ <;> intro x hx <;>
    cases List.mem_singleton.1 hx
  · exact he
  all_goals
    intro ha
    obtain ⟨hbusy, hadmitted, hafter⟩ := hrun ha
    assumption

theorem OrderInv.begins (h : OrderInv s) (hb : Begins s t es) (ht : t.ghost.trace = es ++ s.ghost.trace) :
    OrderInv t := by
  obtain ⟨hno, e, rfl, hag, hk, hen⟩ := hb
  rw [List.singleton_append] at ht
  constructor <;> simp only [ht, hno]
  · refine List.pairwise_cons.2 ⟨fun f hf => ?_, h.ordered⟩
    rintro (⟨ha, _⟩ | ⟨_, _, hf', hle⟩ | ⟨ha, _⟩)
    · simp [hag] at ha
    · have := h.begun f hf hf'
      omega
    · simp [hag] at ha
  · intro f hf ha
    rcases List.mem_cons.1 hf with rfl | hf
    · omega
    · exact Nat.le_succ_of_le (h.begun f hf ha)
  · intro f hf hkf
    rcases List.mem_cons.1 hf with rfl | hf
    · simp [hk] at hkf
    · have := (h.seen f hf hkf).1
      exact ⟨by omega, fun _ => by omega⟩
  · intro f hf ha hfn
    rcases List.mem_cons.1 hf with rfl | hf
    · simp [hag] at ha
    · have := h.begun f hf ha
      omega

/-- A new event is not ordered before an older one. -/
theorem OrderInv.not_obBefore (h : OrderInv s) (hc : Continues s t es) (he : e ∈ es) (hf : f ∈ s.ghost.trace) :
    ¬ e.obBefore f := by
  obtain ⟨hno, hk, _⟩ := hc.events e he
  rintro (⟨ha, hfa, hlt | ⟨heq, hr⟩⟩ | ⟨_, hk', _⟩ | ⟨ha, _, hkf, hle⟩)
  · have := h.begun f hf hfa
    omega
  · obtain ⟨hle, hlen⟩ := hc.after e he ha f (h.before f hf hfa (by omega))
    rcases hr with hr | hr
    · omega
    · exact hlen hr
  · exact hk hk'
  · have := (h.seen f hf hkf).2 (hc.busy e he ha)
    omega

theorem OrderInv.continues (h : OrderInv s) (hc : Continues s t es) (ht : t.ghost.trace = es ++ s.ghost.trace) :
    OrderInv t := by
  have hno := hc.cmdNo
  constructor <;> simp only [ht, hno]
  · exact List.pairwise_append.2 ⟨hc.ordered, h.ordered, fun e he f hf => h.not_obBefore hc he hf⟩
  · intro e he ha
    rcases List.mem_append.1 he with he | he
    · exact (hc.events e he).1.le
    · exact h.begun e he ha
  · intro e he hk
    rcases List.mem_append.1 he with he | he
    · obtain ⟨hen, _, hidle⟩ := hc.events e he
      exact ⟨hen.le, fun hn => absurd (hidle hk) hn⟩
    · obtain ⟨hle, hlt⟩ := h.seen e he hk
      exact ⟨hle, fun hn => hlt (hc.fsm hn)⟩
  · intro e he ha hn
    rcases List.mem_append.1 he with he | he
    · exact hc.admitted e he ha
    · exact hc.admits e (h.before e he ha hn)

/-! ### The inbound FIFO -/

/-- The event is no push and no pop. -/
def Event.offFifo (e : Event) : Prop := ∀ n, e.kind ≠ .push n ∧ e.kind ≠ .pop n

theorem EventKind.isPush_iff {k : EventKind} : k.isPush = true ↔ ∃ n, k = .push n := by
  cases k <;> simp [EventKind.isPush]

theorem pushed_append (es fs : List Event) : pushed (es ++ fs) = pushed es ++ pushed fs := by
  simp [pushed]

theorem pushed_of_offFifo (h : ∀ e ∈ es, e.offFifo) : pushed es = [] := by
  simp only [pushed, List.map_eq_nil_iff, List.filter_eq_nil_iff]
  intro e he hp
  obtain ⟨n, hn⟩ := EventKind.isPush_iff.1 hp
  exact (h e he n).1 hn

/-- A push adds its entry's bytes, and no other event adds any. -/
theorem pushed_cons_push {n : Nat} (h : e.kind = .push n) (es : List Event) :
    pushed (e :: es) = e.bytes :: pushed es := by
  simp [pushed, h, EventKind.isPush]

theorem pushed_cons_pop {n : Nat} (h : e.kind = .pop n) (es : List Event) : pushed (e :: es) = pushed es := by
  simp [pushed, h, EventKind.isPush]

theorem mailboxAgrees_append {q : List Entry} (hes : ∀ e ∈ es, e.offFifo) (h : mailboxAgrees fs q) :
    mailboxAgrees (es ++ fs) q := by
  induction es with
  | nil => exact h
  | cons e es ih =>
    have he := hes e List.mem_cons_self
    exact ⟨fun n hn => absurd hn (he n).1, fun n hn => absurd hn (he n).2,
      ih fun f hf => hes f (List.mem_cons_of_mem _ hf)⟩

/-- What a step does to the inbound FIFO and to the entries that have entered it, with the event that records it
(`60_exceptions.md` R165). -/
inductive FifoStep (s t : State) : List Event → Prop where
  | kept {es : List Event} (hes : ∀ e ∈ es, e.offFifo) (hent : t.ghost.entered = s.ghost.entered)
      (hin : t.mbx.inbound <:+ s.mbx.inbound) : FifoStep s t es
  | push {e : Event} (x : Entry) (hk : e.kind = .push s.ghost.entered.length) (hb : e.bytes = entryBytes x)
      (hent : t.ghost.entered = s.ghost.entered ++ [x]) (hin : t.mbx.inbound = s.mbx.inbound ++ [x]) : FifoStep s t [e]
  | pop {e : Event} (x : Entry) (hk : e.kind = .pop s.headNo) (hb : e.bytes = entryBytes x)
      (hent : t.ghost.entered = s.ghost.entered) (hin : s.mbx.inbound = x :: t.mbx.inbound) : FifoStep s t [e]

theorem FifoStep.kept_one (he : e.offFifo) (hent : t.ghost.entered = s.ghost.entered)
    (hin : t.mbx.inbound <:+ s.mbx.inbound) : FifoStep s t [e] :=
  .kept (fun _ hx => List.mem_singleton.1 hx ▸ he) hent hin

/-- Every entry that a negotiation holds after the step, and every ring's, was held or in the FIFO before it, and an
entry that the partner is still to push stays one of the run's (log 1). -/
structure EntriesKept (s t : State) : Prop where
  ents : ∀ e ∈ t.neg.ents, e ∈ s.neg.ents ∨ e ∈ s.mbx.inbound
  rings : t.status.rv = true →
    (s.status.rv = true ∧ t.rings = s.rings) ∨
      (t.rings.lbase ∈ (s.neg.ents ++ s.mbx.inbound).flatMap Entry.ringBases ∧
        t.rings.rbase ∈ (s.neg.ents ++ s.mbx.inbound).flatMap Entry.ringBases)
  placed : t.ghost.entered ++ pushesOf t.env.partnerProg = s.ghost.entered ++ pushesOf s.env.partnerProg

theorem FifoStep.entered_subset (h : FifoStep s t es) : s.ghost.entered ⊆ t.ghost.entered := by
  cases h with
  | kept hes hent hin => simp [hent]
  | push x hk hb hent hin => simp [hent]
  | pop x hk hb hent hin => simp [hent]

/-- The FIFO holds the latest of the entries that have entered it. -/
theorem FifoStep.inFifo (h : FifoStep s t es) (hs : s.mbx.inbound <:+ s.ghost.entered) :
    t.mbx.inbound <:+ t.ghost.entered := by
  cases h with
  | kept hes hent hin => exact hent ▸ hin.trans hs
  | push x hk hb hent hin => exact hent ▸ hin ▸ List.suffix_concat_iff.2 (.inr ⟨_, rfl, hs⟩)
  | pop x hk hb hent hin => exact hent ▸ (hin ▸ List.suffix_cons x t.mbx.inbound).trans hs

/-- The oldest entry of the FIFO has the number of those that have left it. -/
theorem State.entered_headNo {x : Entry} {xs : List Entry} (h : s.mbx.inbound <:+ s.ghost.entered)
    (hin : s.mbx.inbound = x :: xs) : s.ghost.entered[s.headNo]? = some x := by
  obtain ⟨gone, hgone⟩ := h
  have hno : s.headNo = gone.length := by simp [State.headNo, ← hgone]
  rw [hno, ← hgone, hin]
  simp

/-- Pops have the numbers of entries that have left the FIFO. -/
theorem FifoStep.popped (h : FifoStep s t es) (hi : EntryInv s) (ht : t.ghost.trace = es ++ s.ghost.trace) :
    ∀ e ∈ t.ghost.trace, ∀ n, e.kind = .pop n → n < t.headNo := by
  intro e he n hn
  have hlen := hi.inFifo.length_le
  rw [ht] at he
  cases h with
  | kept hes hent hin =>
    rcases List.mem_append.1 he with he | he
    · exact absurd hn (hes e he n).2
    · have := hi.popped e he n hn
      have := hin.length_le
      simp only [State.headNo, hent] at *
      omega
  | push x hk hb hent hin =>
    rcases List.mem_cons.1 he with rfl | he
    · cases hk.symm.trans hn
    · have := hi.popped e he n hn
      simp only [State.headNo, hent, hin, List.length_append] at *
      omega
  | pop x hk hb hent hin =>
    simp only [hin, List.length_cons] at hlen
    rcases List.mem_cons.1 he with rfl | he
    · cases hk.symm.trans hn
      simp only [State.headNo, hent, hin, List.length_cons]
      omega
    · have := hi.popped e he n hn
      simp only [State.headNo, hent, hin, List.length_cons] at *
      omega

/-- The record of pushes and pops agrees with the entries. -/
theorem FifoStep.agrees (h : FifoStep s t es) (hi : EntryInv s) (ht : t.ghost.trace = es ++ s.ghost.trace) :
    ∃ q, mailboxAgrees t.ghost.trace q ∧
      t.ghost.entered.map entryBytes = q.map entryBytes ++ (pushed t.ghost.trace).reverse := by
  obtain ⟨q, hq, hentered⟩ := hi.agrees
  refine ⟨q, ?_⟩
  rw [ht]
  cases h with
  | kept hes hent hin =>
    exact ⟨mailboxAgrees_append hes hq, by rw [pushed_append, pushed_of_offFifo hes, hent]; exact hentered⟩
  | push x hk hb hent hin =>
    have hlen : s.ghost.entered.length = q.length + (pushed s.ghost.trace).length := by
      simpa using congrArg List.length hentered
    refine ⟨⟨fun n hn => ?_, fun n hn => ?_, hq⟩, ?_⟩
    · cases hk.symm.trans hn
      exact hlen
    · cases hk.symm.trans hn
    · rw [List.singleton_append, pushed_cons_push hk, hb, hent, List.map_append, hentered]
      simp
  | pop x hk hb hent hin =>
    refine ⟨⟨fun n hn => ?_, fun n hn => ?_, hq⟩, ?_⟩
    · cases hk.symm.trans hn
    · cases hk.symm.trans hn
      refine ⟨?_, fun f hf m hm => hi.popped f hf m hm⟩
      show (q.map entryBytes ++ (pushed s.ghost.trace).reverse)[s.headNo]? = _
      rw [← hentered, List.getElem?_map, State.entered_headNo hi.inFifo hin, hb]
      rfl
    · rw [List.singleton_append, pushed_cons_pop hk, hent]
      exact hentered

/-- More entries place more rings. -/
theorem ringBases_mono {xs ys : List Entry} {b : Word} (h : xs ⊆ ys) (hb : b ∈ xs.flatMap Entry.ringBases) :
    b ∈ ys.flatMap Entry.ringBases := by
  obtain ⟨x, hx, hbx⟩ := List.mem_flatMap.1 hb
  exact List.mem_flatMap.2 ⟨x, h hx, hbx⟩

theorem EntryInv.step (hi : EntryInv s) (h : FifoStep s t es) (ht : t.ghost.trace = es ++ s.ghost.trace)
    (hk : EntriesKept s t) : EntryInv t where
  inFifo := h.inFifo hi.inFifo
  agrees := h.agrees hi ht
  popped := h.popped hi ht
  recorded := fun e he => h.entered_subset ((hk.ents e he).elim (hi.recorded e) fun hin => hi.inFifo.subset hin)
  rings := by
    have hsub : s.neg.ents ++ s.mbx.inbound ⊆ t.ghost.entered :=
      List.append_subset.2 ⟨fun e he => h.entered_subset (hi.recorded e he),
        fun e he => h.entered_subset (hi.inFifo.subset he)⟩
    intro hrv
    rcases hk.rings hrv with ⟨hs, hr⟩ | ⟨hl, hr⟩
    · obtain ⟨hl', hr'⟩ := hi.rings hs
      rw [hr]
      exact ⟨ringBases_mono h.entered_subset hl', ringBases_mono h.entered_subset hr'⟩
    · exact ⟨ringBases_mono hsub hl, ringBases_mono hsub hr⟩

/-! ### A step and its record -/

/-- What one step adds to the record: its events account for memory and stand in order, and the FIFO's entries and the
rings' are kept. -/
structure StepRecord (s t : State) (es : List Event) : Prop where
  recorded : Recorded s t es
  order : Begins s t es ∨ Continues s t es
  fifo : FifoStep s t es
  entries : EntriesKept s t

/-- The step adds some events to the record. -/
def Records (s t : State) : Prop := ∃ es, StepRecord s t es

theorem StepRecord.traceInv (h : StepRecord s t es) (hs : TraceInv s) : TraceInv t := by
  obtain ⟨hwf, ho, hm⟩ := traceInv_iff.1 hs
  have ht := h.recorded.trace
  refine traceInv_iff.2 ⟨fun e he => ?_, ?_, hm.step h.fifo ht h.entries⟩
  · rw [ht] at he
    exact (List.mem_append.1 he).elim (h.recorded.wf e) (hwf e)
  · exact h.order.elim (ho.begins · ht) (ho.continues · ht)

/-- The cursor words stay the same: every entry that places a ring stays one of the run's. -/
theorem StepRecord.cursorAddrs (h : StepRecord s t es) (hs : EntryInv s) (ht : EntryInv t) (a : Word) :
    a ∈ t.cursorAddrs ↔ a ∈ s.cursorAddrs := by
  simp only [State.mem_cursorAddrs, State.mem_ringBases hs, State.mem_ringBases ht, h.entries.placed]

/-- What the record depends on is as before, but for the trace and memory. -/
structure Keeps (s t : State) : Prop where
  cmdNo : t.ghost.cmdNo = s.ghost.cmdNo
  entered : t.ghost.entered = s.ghost.entered
  fsm : t.fsm = s.fsm
  xfer : t.xfer = s.xfer
  inbound : t.mbx.inbound = s.mbx.inbound
  ents : t.neg.ents = s.neg.ents
  rings : t.rings = s.rings
  rv : t.status.rv = s.status.rv
  pushes : pushesOf t.env.partnerProg = pushesOf s.env.partnerProg

theorem Keeps.admits (h : Keeps s t) (e : Event) : t.admits e ↔ s.admits e := by
  simp only [State.admits, h.fsm, h.xfer]

/-- A step has the record of the same step from a state that is the same in all the record depends on. -/
theorem Records.of_same (h : Keeps s u) (htrace : u.ghost.trace = s.ghost.trace) (hmem : u.mem = s.mem)
    (hr : Records u t) : Records s t := by
  obtain ⟨es, hrec, hord, hfifo, hent⟩ := hr
  refine ⟨es, ⟨htrace ▸ hrec.trace, hmem ▸ hrec.mem, hmem ▸ hrec.agrees, hrec.wf⟩, ?_, ?_, ?_⟩
  · refine hord.imp (fun hb => ⟨h.cmdNo ▸ hb.cmdNo, h.cmdNo ▸ hb.events⟩) fun hc => ?_
    exact ⟨h.cmdNo ▸ hc.cmdNo, h.fsm ▸ hc.fsm, h.cmdNo ▸ hc.events,
      h.fsm ▸ hc.busy, hc.admitted, fun e he ha f hf => hc.after e he ha f ((h.admits f).2 hf),
      fun f hf => hc.admits f ((h.admits f).2 hf), hc.ordered⟩
  · have hno : u.headNo = s.headNo := by simp only [State.headNo, h.entered, h.inbound]
    cases hfifo with
    | kept hes he hin => exact .kept hes (he.trans h.entered) (h.inbound ▸ hin)
    | push x hk hb he hin => exact .push x (h.entered ▸ hk) hb (h.entered ▸ he) (h.inbound ▸ hin)
    | pop x hk hb he hin => exact .pop x (hno ▸ hk) hb (he.trans h.entered) (h.inbound ▸ hin)
  · exact ⟨h.ents ▸ h.inbound ▸ hent.ents, h.rv ▸ h.rings ▸ h.ents ▸ h.inbound ▸ hent.rings,
      h.pushes ▸ h.entered ▸ hent.placed⟩

/-- A step that records nothing: the controller stays where it is or becomes idle, and of the FIFO, the entries held and
the rings some may be dropped. -/
structure Quiet (s t : State) : Prop where
  trace : t.ghost.trace = s.ghost.trace
  mem : t.mem = s.mem
  cmdNo : t.ghost.cmdNo = s.ghost.cmdNo
  entered : t.ghost.entered = s.ghost.entered
  fsm : t.fsm = .idle ∨ (t.fsm = s.fsm ∧ t.xfer.phase = s.xfer.phase)
  inbound : t.mbx.inbound <:+ s.mbx.inbound
  ents : t.neg.ents ⊆ s.neg.ents
  rings : t.status.rv = true → s.status.rv = true ∧ t.rings = s.rings
  pushes : pushesOf t.env.partnerProg = pushesOf s.env.partnerProg

theorem State.admits_idle (h : s.fsm = .idle) (e : Event) : s.admits e := by
  simp only [State.admits, h]

theorem Quiet.records (h : Quiet s t) : Records s t := by
  refine ⟨[], .nil h.trace h.mem, .inr ⟨h.cmdNo, fun hn => ?_, nofun, nofun, nofun, nofun, fun f hf => ?_, .nil⟩,
    .kept nofun h.entered h.inbound, fun e he => .inl (h.ents he), fun hrv => .inl (h.rings hrv), by
      rw [h.entered, h.pushes]⟩
  · rcases h.fsm with hi | ⟨hf, _⟩
    · exact absurd hi hn
    · exact hf ▸ hn
  · rcases h.fsm with hi | ⟨hfsm, hp⟩
    · exact State.admits_idle hi f
    · simpa only [State.admits, hfsm, hp] using hf

theorem Keeps.quiet (h : Keeps s t) (htrace : t.ghost.trace = s.ghost.trace) (hmem : t.mem = s.mem) : Quiet s t :=
  ⟨htrace, hmem, h.cmdNo, h.entered, .inr ⟨h.fsm, congrArg Xfer.phase h.xfer⟩, h.inbound ▸ List.suffix_rfl,
    h.ents ▸ List.Subset.refl _, fun hrv => ⟨h.rv ▸ hrv, h.rings⟩, h.pushes⟩

/-- One event of the host or the partner that is no push and begins no command. -/
theorem Keeps.records_one (h : Keeps s t) (hrec : Recorded s t [e]) (hag : e.agent ≠ .controller)
    (hno : e.cmdNo = s.ghost.cmdNo) (hfifo : e.offFifo) (hk : e.kind ≠ .cmdWrite)
    (hidle : e.kind = .idleRead → s.fsm = .idle) : Records s t := by
  refine ⟨[e], hrec, .inr (.one h.cmdNo (fun hn => h.fsm ▸ hn) ?_ (absurd · hag) fun f hf => (h.admits f).2 hf),
    .kept_one hfifo h.entered (h.inbound ▸ List.suffix_rfl), fun x hx => .inl (h.ents ▸ hx),
    fun hrv => .inl ⟨h.rv ▸ hrv, h.rings⟩, by rw [h.entered, h.pushes]⟩
  exact ⟨hno, hk, fun hi => h.fsm.trans (hidle hi)⟩

/-- An access of memory is no event of the FIFO, the register port or a command's beginning. -/
theorem EventKind.access_ne {k : EventKind} (h : k.reads = true ∨ k.writes = true) :
    (∀ n, k ≠ .push n ∧ k ≠ .pop n) ∧ k ≠ .cmdWrite ∧ k ≠ .idleRead := by
  cases k <;> simp_all [EventKind.reads, EventKind.writes]

end Sys2Proof.Machine
end

section
/-! PROOFS. What each turn of the host, the partner, the mailbox and the reset input adds to the record. -/

namespace Sys2Proof.Machine

variable {s t u : State} {c : CtlChoice} {es fs : List Event} {e f : Event}

/-! ### The other agents' accesses -/

/-- A read of memory by the host or the partner. -/
theorem State.loadBytes_records {ag : Agent} {k : EventKind} {a : Word} {bs : List EventByte} (hag : ag ≠ .controller)
    (hk : k = .plainRead ∨ k = .acqRead ∧ s.cursorAccess k a bs.length = true) (hlen : bs.length ≤ 4)
    (hreads : ∀ e : Event, e.addr = a → e.bytes = bs → e.ReadsFrom s.mem) : Records s (s.loadBytes ag k a bs) := by
  have hr : k.reads = true ∧ k.writes = false ∧ k ≠ .relWrite ∧ k ≠ .lenRead := by
    rcases hk with rfl | ⟨rfl, _⟩ <;> decide
  obtain ⟨hreads', hwrites, hrel, hnl⟩ := hr
  obtain ⟨hfifo, hcw, hir⟩ := EventKind.access_ne (.inl hreads')
  have hkeep : Keeps s (s.loadBytes ag k a bs) := by constructor <;> rfl
  refine hkeep.records_one (.one rfl ?_ (hreads _ rfl rfl) (State.access_wf _ hlen (.inl hreads') ?_ (absurd · hnl)))
    hag rfl hfifo hcw (absurd · hir)
  · simp [Event.apply, hwrites]
  · rintro (rfl | rfl)
    · exact (hk.resolve_left nofun).2
    · exact absurd rfl hrel

/-- A write of memory by the host or the partner. -/
theorem State.storeBytes_records {ag : Agent} {k : EventKind} {a : Word} {bs : List EventByte} (hag : ag ≠ .controller)
    (hk : k = .plainWrite ∨ k = .relWrite ∧ s.cursorAccess k a bs.length = true) (hlen : bs.length ≤ 4) :
    Records s (s.storeBytes ag k a bs) := by
  have hw : k.reads = false ∧ k.writes = true ∧ k ≠ .acqRead ∧ k ≠ .lenRead := by
    rcases hk with rfl | ⟨rfl, _⟩ <;> decide
  obtain ⟨hreads, hwrites, hacq, hnl⟩ := hw
  obtain ⟨hfifo, hcw, hir⟩ := EventKind.access_ne (.inr hwrites)
  have hkeep : Keeps s (s.storeBytes ag k a bs) := by constructor <;> simp
  refine hkeep.records_one (e := ⟨ag, s.ghost.cmdNo, k, a, bs, s.cursorAccess k a bs.length⟩)
    (.one (by simp) ?_ (fun hr => ?_) (State.access_wf _ hlen (.inr hwrites) ?_ (absurd · hnl)))
    hag rfl hfifo hcw (absurd · hir)
  · simp [Event.apply, hwrites]
  · simp [hreads] at hr
  · rintro (rfl | rfl)
    · exact absurd rfl hacq
    · exact (hk.resolve_left nofun).2

/-- An acquire or release access is one at a cursor word, and else plain. -/
theorem State.cursorKind_cases (k p : EventKind) (a : Word) (s : State) :
    (s.cursorKind k p a = p) ∨ (s.cursorKind k p a = k ∧ s.cursorAccess (s.cursorKind k p a) a 4 = true) := by
  simp only [State.cursorKind]
  split
  · exact .inr ⟨rfl, ‹_›⟩
  · exact .inl rfl

theorem State.agentLoad32_records {ag : Agent} (hag : ag ≠ .controller) {k : EventKind}
    (hk : k = .plainRead ∨ k = .acqRead) (a : Word) (race : BitVec 4) : Records s (s.agentLoad32 ag k a race) := by
  refine State.loadBytes_records hag ?_ (by simp) fun e he hb => s.wordRead_readsFrom (by rw [hb, he]; rfl)
  rcases s.cursorKind_cases k .plainRead a with h | ⟨h, hc⟩
  · exact .inl h
  · exact hk.imp (fun hk => h.trans hk) fun hk => ⟨h.trans hk, hc⟩

theorem State.agentStore32_records {ag : Agent} (hag : ag ≠ .controller) {k : EventKind}
    (hk : k = .plainWrite ∨ k = .relWrite) (a v : Word) (race : BitVec 4) :
    Records s (s.agentStore32 ag k a v race) := by
  refine State.storeBytes_records hag ?_ (by simp)
  rcases s.cursorKind_cases k .plainWrite a with h | ⟨h, hc⟩
  · exact .inl h
  · exact hk.imp (fun hk => h.trans hk) fun hk => ⟨h.trans hk, hc⟩

/-! ### The host's turn -/

/-- A command begins: its CMD write is recorded with the next number. -/
theorem Records.begins (htrace : t.ghost.trace = ⟨.host, s.ghost.cmdNo + 1, .cmdWrite, 0, [], false⟩ :: s.ghost.trace)
    (hno : t.ghost.cmdNo = s.ghost.cmdNo + 1) (hmem : t.mem = s.mem) (hent : t.ghost.entered = s.ghost.entered)
    (hin : t.mbx.inbound = s.mbx.inbound) (hents : t.neg.ents ⊆ s.neg.ents)
    (hrings : t.status.rv = true → s.status.rv = true ∧ t.rings = s.rings)
    (hpush : pushesOf t.env.partnerProg = pushesOf s.env.partnerProg) : Records s t := by
  have hwf : Event.Wf ⟨.host, s.ghost.cmdNo + 1, .cmdWrite, 0, [], false⟩ := by constructor <;> simp
  refine ⟨_, .one htrace hmem nofun hwf, .inl ⟨hno, _, rfl, rfl, rfl, rfl⟩,
    .kept_one (fun n => ⟨nofun, nofun⟩) hent (hin ▸ List.suffix_rfl),
    fun e he => .inl (hents he), fun hrv => .inl (hrings hrv), by rw [hent, hpush]⟩

/-- A command that an idle controller accepts. -/
theorem State.atIdle_records {g : State → State} (h : s.fsm = .idle → Records s (g s)) : Records s (s.atIdle g) := by
  by_cases hf : s.fsm = .idle
  · exact State.atIdle_idle g hf ▸ h hf
  · refine State.atIdle_busy g hf ▸ Quiet.records ?_
    constructor <;> simp

/-- CLOSE or RESET, which a waiting negotiation takes as its abort. -/
theorem State.atIdleOrAbort_records (i : Instr) {g : State → State} (h : s.fsm = .idle → Records s (g s)) :
    Records s (s.atIdleOrAbort i g) := by
  cases hf : s.fsm with
  | idle => exact State.atIdleOrAbort_idle i g hf ▸ h hf
  | negWait =>
    refine State.atIdleOrAbort_negWait i g hf ▸ Quiet.records ?_
    constructor <;> simp
  | exec =>
    refine State.atIdleOrAbort_exec i g hf ▸ Quiet.records ?_
    constructor <;> simp

theorem State.withOpen_records {o : BitVec 4} {g : State → State} (h : Records s (g (s.setLopc o))) :
    Records s (s.withOpen o g) := by
  cases ho : s.status.isOpen with
  | true => exact State.withOpen_open o g ho ▸ h
  | false =>
    refine State.withOpen_closed o g ho ▸ Quiet.records ?_
    constructor <;> simp

theorem State.openIdle_records (rxie : Bool) (s : State) : Records s (s.openIdle rxie) := by
  simp only [State.openIdle]
  split
  · apply Quiet.records
    constructor <;> simp
  · apply Records.begins <;> simp

theorem State.enterExec_records (i : Instr) (x : XferCmd) (o : BitVec 4) (s : State) :
    Records s (((s.setLopc o).acceptCmd i).enterExec x) := by
  apply Records.begins <;> simp

theorem State.writeStart_records (o : BitVec 4) (s : State) : Records s (s.setLopc o).writeStart := by
  simp only [State.writeStart]
  split
  · apply Quiet.records
    constructor <;> simp
  · exact s.enterExec_records _ _ _

theorem State.readStart_records (o : BitVec 4) (s : State) : Records s (s.setLopc o).readStart := by
  simp only [State.readStart]
  split
  · apply Quiet.records
    constructor <;> simp
  · exact s.enterExec_records _ _ _

/-- The CMD write of a command that decodes. -/
theorem exec_records {v : Word} {i : Instr} (hd : decodeCmd v = .ok i) (h : exec i s = .next t) : Records s t := by
  rcases decodeCmd_ok hd with ⟨rxie, rfl⟩ | rfl | rfl | rfl | ⟨both, rfl⟩ | rfl | rfl <;> cases h
  · exact State.atIdle_records fun _ => s.openIdle_records rxie
  · refine State.atIdleOrAbort_records _ fun _ => State.withOpen_records (Quiet.records ?_)
    constructor <;> simp
  · refine State.atIdle_records fun _ => State.withOpen_records (Quiet.records ?_)
    constructor <;> simp [State.negPendResult]
  · refine State.atIdle_records fun _ => State.withOpen_records ?_
    apply Records.begins <;> simp
  · refine State.atIdleOrAbort_records _ fun _ => State.withOpen_records (Quiet.records ?_)
    constructor <;> simp [Mailbox.clear]
  · exact State.atIdle_records fun _ => State.withOpen_records (s.writeStart_records _)
  · exact State.atIdle_records fun _ => State.withOpen_records (s.readStart_records _)

theorem State.cmdWrite_records {v : Word} (h : s.cmdWrite v = .next t) : Records s t := by
  simp only [State.cmdWrite] at h
  split at h
  · exact exec_records ‹_› h
  · cases h
    refine State.atIdle_records fun _ => Quiet.records ?_
    constructor <;> simp

theorem State.writeReg_records (r : Reg) (v : Word) (s : State) : Records s (s.writeReg r v) := by
  have harg : ∀ g, Records s (s.writeArg g) := fun g => by
    simp only [State.writeArg]
    split <;> (apply Quiet.records; constructor <;> simp)
  cases r
  case status | irqPend => simp only [State.writeReg]; split <;> (apply Quiet.records; constructor <;> simp)
  case irqEn => apply Quiet.records; constructor <;> simp [State.writeReg]
  case id0 | id1 | id2 | id3 | addr | len => simp only [State.writeReg, harg]
  all_goals apply Quiet.records; constructor <;> simp [State.writeReg]

/-- A register read records that the host saw BUSY = 0, or nothing. -/
theorem State.hostRead_records (acc : Access) (s : State) : Records s (s.hostRead acc) := by
  rcases s.hostRead_cases acc with h | ⟨hf, h⟩ <;> rw [h]
  · apply Quiet.records
    constructor <;> simp
  · have hkeep : Keeps s ((s.respond (.data (s.readOffset acc.offset))).emit .host .idleRead 0 []) := by
      constructor <;> simp
    refine hkeep.records_one (e := ⟨.host, s.ghost.cmdNo, .idleRead, 0, [], false⟩) (.one rfl rfl nofun ?_) nofun rfl
      (fun n => by simp) nofun fun _ => hf
    constructor <;> simp

/-- The host's program and its answer are nothing the record depends on. -/
theorem State.hostEnv_records (rest : List HostAct) (r : HostResp)
    (h : Records ((s.setHostProg rest).respond r) t) : Records s t := by
  refine Records.of_same (u := (s.setHostProg rest).respond r) ?_ rfl rfl h
  constructor <;> simp

theorem State.setHostProg_records (rest : List HostAct) (h : Records (s.setHostProg rest) t) : Records s t := by
  refine Records.of_same (u := s.setHostProg rest) ?_ rfl rfl h
  constructor <;> simp

theorem Records.refl (s : State) : Records s s :=
  Quiet.records (Keeps.quiet (by constructor <;> rfl) rfl rfl)

/-- One act of the host. -/
theorem State.hostAct_records {a : HostAct} {rest : List HostAct} (h : s.hostAct a rest = .next t) : Records s t := by
  have hrefused : Records s ((s.setHostProg rest).respond .error) := s.hostEnv_records rest _ (.refl _)
  have hread : ∀ acc, Records s ((s.setHostProg rest).hostRead acc) := fun acc =>
    s.setHostProg_records rest (State.hostRead_records acc _)
  have hload : ∀ k a race, k = .plainRead ∨ k = .acqRead → Records s ((s.setHostProg rest).hostLoad32 k a race) :=
    fun k a race hk => s.hostEnv_records rest _ (State.agentLoad32_records (ag := .host) nofun hk a race)
  have hstore : ∀ k a v race, k = .plainWrite ∨ k = .relWrite →
      Records s ((s.hostWrote rest).agentStore32 .host k a v race) :=
    fun k a v race hk => s.hostEnv_records rest .done (State.agentStore32_records (ag := .host) nofun hk a v race)
  cases a with
  | regRead acc =>
    simp only [State.hostAct] at h
    split at h <;> cases h
    · exact hread acc
    · exact hrefused
  | regWrite acc v =>
    simp only [State.hostAct] at h
    split at h
    · refine s.hostEnv_records rest .done ?_
      rcases State.writeOffset_cases h with ⟨_, rfl⟩ | ⟨_, h⟩ | ⟨r, _, _, rfl⟩
      · exact .refl _
      · exact State.cmdWrite_records h
      · exact State.writeReg_records r v _
    · cases h
      exact hrefused
  | poll acc mask value =>
    simp only [State.hostAct] at h
    split at h
    · split at h <;> cases h
      · exact hread acc
      · exact s.hostRead_records acc
    · cases h
      exact hrefused
  | load a race =>
    cases h
    refine s.hostEnv_records rest _ (State.loadBytes_records nofun (.inl rfl) (by simp) fun e he hb => ?_)
    exact s.byteRead_readsFrom (by rw [hb, he])
  | store a b race =>
    cases h
    exact s.hostEnv_records rest .done (State.storeBytes_records nofun (.inl rfl) (by simp))
  | load32 a race => cases h; exact hload _ a race (.inl rfl)
  | store32 a v race => cases h; exact hstore _ a v race (.inl rfl)
  | loadAcq a race => cases h; exact hload _ a race (.inr rfl)
  | storeRel a v race => cases h; exact hstore _ a v race (.inr rfl)

theorem State.hostTurn_records (h : s.hostTurn = .next t) : Records s t := by
  simp only [State.hostTurn] at h
  split at h
  · cases h
    exact .refl s
  · exact State.hostAct_records h

/-! ### The partner's turn and the mailbox's -/

/-- The partner's program is nothing the record depends on, but for the entries it is still to push. -/
theorem State.setPartnerProg_records (rest : List PartnerAct)
    (hp : pushesOf rest = pushesOf s.env.partnerProg) (h : Records (s.setPartnerProg rest) t) : Records s t := by
  refine Records.of_same (u := s.setPartnerProg rest) ?_ rfl rfl h
  constructor <;> simp [hp]

/-- The event of a mailbox FIFO entry that enters or leaves. -/
theorem entryEvent_wf {ag : Agent} {k : EventKind} (n : Nat) (x : Entry)
    (h : (∃ m, k = .push m) ∧ ag = .partner ∨ (∃ m, k = .pop m) ∧ ag = .controller) :
    Event.Wf ⟨ag, n, k, 0, entryBytes x, s.cursorAccess k 0 (entryBytes x).length⟩ := by
  rcases h with ⟨⟨m, rfl⟩, rfl⟩ | ⟨⟨m, rfl⟩, rfl⟩ <;> constructor <;> simp [State.cursorAccess]

/-- A push takes the next number, and its entry goes from those to come to those that have entered. -/
theorem State.pushed_records {x : Entry} {rest : List PartnerAct} (hprog : s.env.partnerProg = .push x :: rest) :
    Records s ((s.setPartnerProg rest).pushed x) := by
  refine ⟨_, .one rfl rfl nofun (entryEvent_wf _ x (.inl ⟨⟨_, rfl⟩, rfl⟩)),
    .inr (.one rfl (fun hn => hn) ⟨rfl, nofun, nofun⟩ nofun fun f hf => hf), .push x rfl rfl rfl rfl,
    fun e he => .inl he, fun hrv => .inl ⟨hrv, rfl⟩, ?_⟩
  simp [State.pushed, pushesOf, hprog]

theorem State.partnerTurn_records (s : State) : Records s s.partnerTurn := by
  simp only [State.partnerTurn]
  split
  · exact .refl s
  · rename_i a rest hprog
    have hskip : ∀ {u}, (∀ x, a ≠ .push x) → Records (s.setPartnerProg rest) u → Records s u := fun ha =>
      s.setPartnerProg_records rest (by cases a <;> simp_all [pushesOf])
    cases a with
    | push x =>
      simp only [State.partnerAct]
      split
      · exact State.pushed_records hprog
      · exact .refl s
    | signal port =>
      refine hskip nofun ?_
      simp only [State.partnerAct]
      split
      · apply Quiet.records
        constructor <;> simp
      · exact .refl _
    | load a race =>
      refine hskip nofun (State.loadBytes_records nofun (.inl rfl) (by simp) ?_)
      exact fun e he hb => s.byteRead_readsFrom (by rw [hb, he])
    | store a b race => exact hskip nofun (State.storeBytes_records nofun (.inl rfl) (by simp))
    | load32 a race => exact hskip nofun (State.agentLoad32_records (ag := .partner) nofun (.inl rfl) a race)
    | store32 a v race => exact hskip nofun (State.agentStore32_records (ag := .partner) nofun (.inl rfl) a v race)
    | loadAcq a race => exact hskip nofun (State.agentLoad32_records (ag := .partner) nofun (.inr rfl) a race)
    | storeRel a v race => exact hskip nofun (State.agentStore32_records (ag := .partner) nofun (.inr rfl) a v race)
    | popOutbound =>
      apply Quiet.records
      constructor <;> simp [State.partnerAct, hprog, pushesOf]
    | clear both =>
      apply Quiet.records
      cases both <;> constructor <;> simp [State.partnerAct, Mailbox.clearByPartner, hprog, pushesOf]

theorem State.deliverToIrbc_records (n : Nat) (s : State) : Records s (s.deliverToIrbc n) := by
  simp only [State.deliverToIrbc, State.partnerEvent_eq]
  split
  · exact .refl s
  · apply Quiet.records
    constructor <;> simp

theorem State.deliverToPartner_records (n : Nat) (s : State) : Records s (s.deliverToPartner n) := by
  simp only [State.deliverToPartner]
  split
  · exact .refl s
  · apply Quiet.records
    constructor <;> simp

theorem State.timeoutEvent_records (s : State) : Records s s.timeoutEvent := by
  simp only [State.timeoutEvent]
  split
  · apply Quiet.records
    constructor <;> simp
  · exact .refl s

/-! ### The reset input -/

/-- The free bytes of an abandoned transfer are plain writes of its command (log 13). -/
theorem State.scramble_recorded (as : List Word) (s : State) : ∃ es, Recorded s (State.scramble as s) es ∧
    (State.scramble as s).ghost.cmdNo = s.ghost.cmdNo ∧ (State.scramble as s).ghost.entered = s.ghost.entered ∧
    ∀ e ∈ es, e.agent = .controller ∧ e.cmdNo = s.ghost.cmdNo ∧ e.kind = .plainWrite := by
  induction as generalizing s with
  | nil => exact ⟨[], .nil rfl rfl, rfl, rfl, nofun⟩
  | cons a as ih =>
    set bs : List EventByte := [{ val := s.freeByte 0, mark := Mark.clear }]
    obtain ⟨es, hrec, hno, hent, hes⟩ := ih (s.storeBytes .controller .plainWrite a bs)
    have hone : Recorded s (s.storeBytes .controller .plainWrite a bs)
        [⟨.controller, s.ghost.cmdNo, .plainWrite, a, bs, s.cursorAccess .plainWrite a bs.length⟩] :=
      .one rfl rfl nofun (State.access_wf _ (by simp [bs]) (.inr rfl) nofun nofun)
    refine ⟨_, hone.trans hrec, hno, hent, fun e he => ?_⟩
    rcases List.mem_append.1 he with he | he
    · exact hes e he
    · cases List.mem_singleton.1 he
      exact ⟨rfl, rfl, rfl⟩

/-- Plain writes of one command are in any order. -/
theorem traceOrdered_plainWrites {n : Nat}
    (h : ∀ e ∈ es, e.agent = .controller ∧ e.cmdNo = n ∧ e.kind = .plainWrite) : traceOrdered es := by
  refine List.pairwise_of_forall_mem_list fun e he f hf => ?_
  obtain ⟨hea, hen, hek⟩ := h e he
  obtain ⟨hfa, hfn, hfk⟩ := h f hf
  rintro (⟨_, _, hlt | ⟨_, hr | hr⟩⟩ | ⟨_, hk, _⟩ | ⟨_, hk, _⟩)
  · omega
  · simp [hek, hfk] at hr
  · simp [hek] at hr
  · simp [hek] at hk
  · simp [hfa] at hk

/-- Where a transfer is abandoned, what its command admits ranks no higher than a plain write. -/
theorem State.admits_of_abandoned (h : s.abandonedTargets ≠ []) :
    s.fsm = .exec ∧ ∀ f, s.admits f → f.kind.rank ≤ 2 := by
  simp only [State.abandonedTargets] at h
  split at h
  · rename_i hp
    obtain ⟨hf, hp⟩ := hp
    refine ⟨hf, fun f hfa => ?_⟩
    rcases hp with hp | hp <;> simpa only [State.admits, hf, hp, Phase.admits] using hfa
  · exact absurd rfl h

theorem State.resetInput_records (s : State) : Records s s.resetInput := by
  obtain ⟨es, hrec, hno, hent, hes⟩ := s.scramble_recorded s.abandonedTargets
  obtain ⟨hframe, _⟩ := State.scramble_frame s.abandonedTargets s
  have hidle : s.resetInput.fsm = .idle := rfl
  have hnil : es ≠ [] → s.abandonedTargets ≠ [] := fun hne hnil => by
    have ht := hrec.trace
    rw [hnil] at ht
    exact hne (by simpa [State.scramble] using ht)
  refine ⟨es, ⟨hrec.trace, hrec.mem, hrec.agrees, hrec.wf⟩,
    .inr ⟨hno, fun hn => absurd hidle hn, fun e he => ?_, fun e he _ => ?_, fun e _ _ => State.admits_idle hidle e,
      fun e he _ f hf => ?_, fun f _ => State.admits_idle hidle f, traceOrdered_plainWrites hes⟩,
    .kept (fun e he n => ?_) hent ?_, nofun, nofun, ?_⟩
  · obtain ⟨_, hen, hek⟩ := hes e he
    exact ⟨hen, by simp [hek], by simp [hek]⟩
  · obtain ⟨hexec, _⟩ := State.admits_of_abandoned (hnil (List.ne_nil_of_mem he))
    simp [hexec]
  · obtain ⟨_, hrank⟩ := State.admits_of_abandoned (hnil (List.ne_nil_of_mem he))
    obtain ⟨_, _, hek⟩ := hes e he
    exact ⟨(hrank f hf).trans (by simp [hek, EventKind.rank]), by simp [hek]⟩
  · obtain ⟨_, _, hek⟩ := hes e he
    simp [hek]
  · simp only [State.resetInput, State.resetRegisters_mbx]
    rw [hframe]
  · simp only [State.resetInput, State.resetRegisters_env, State.resetRegisters_ghost, hent]
    rw [hframe]

end Sys2Proof.Machine
end

section
/-! PROOFS. What each turn of the controller adds to the record; with it the statements that memory replays the trace
and that every step keeps the order of events. -/

namespace Sys2Proof.Machine

variable {s t u : State} {c : CtlChoice} {es fs : List Event} {e f : Event}

/-! ### The controller's turn in EXEC -/

/-- A kind that ranks above 0 is an access or the signal. -/
theorem EventKind.rank_pos {k : EventKind} (h : 0 < k.rank) :
    (∀ n, k ≠ .push n ∧ k ≠ .pop n) ∧ k ≠ .cmdWrite ∧ k ≠ .idleRead := by
  cases k <;> simp_all [EventKind.rank]

/-- A step of the running command with one event that comes after those its phase admits, and that the next phase admits
with them. -/
theorem ExecKept.records_one {p : Phase} (hk : ExecKept s t) (hf : s.fsm = .exec) (hp : s.xfer.phase = p)
    (hrec : Recorded s t [e]) (hno : e.cmdNo = s.ghost.cmdNo) (hrank : 0 < e.kind.rank)
    (hbefore : ∀ f, p.admits f → e.notBefore f)
    (hnext : t.fsm = .idle ∨ t.xfer.phase.admits e ∧ ∀ f, p.admits f → t.xfer.phase.admits f) : Records s t := by
  obtain ⟨hfifo, hcw, hir⟩ := EventKind.rank_pos hrank
  have hs : ∀ f, s.admits f ↔ p.admits f := fun f => by simp only [State.admits, hf, hp]
  have ht : ∀ f, (t.fsm = .idle ∨ t.xfer.phase.admits f) → t.admits f := fun f h => by
    rcases hk.fsm with hfsm | hfsm
    · simpa only [State.admits, hfsm, reduceCtorEq, false_or] using h
    · exact State.admits_idle hfsm f
  have hbusy : s.fsm ≠ .idle := by simp [hf]
  refine ⟨[e], hrec, .inr (.one hk.cmdNo (fun _ => hbusy) ⟨hno, hcw, (absurd · hir)⟩
    (fun _ => ⟨hbusy, ?_, fun f hfa => ?_⟩) fun f hfa => ?_), .kept_one hfifo hk.entered (hk.inbound ▸ List.suffix_rfl),
    fun x hx => .inl (hk.neg ▸ hx), fun h => .inl ⟨hk.rv ▸ h, hk.rings⟩, by rw [hk.entered, hk.env]⟩
  · exact ht e (hnext.imp_right And.left)
  · exact hbefore f ((hs f).1 hfa)
  · exact ht f (hnext.imp_right fun h => h.2 f ((hs f).1 hfa))

/-- A step of the running command that ends it without an event. -/
theorem ExecKept.quiet (hk : ExecKept s t) (hidle : t.fsm = .idle) (htrace : t.ghost.trace = s.ghost.trace)
    (hmem : t.mem = s.mem) : Quiet s t :=
  ⟨htrace, hmem, hk.cmdNo, hk.entered, .inl hidle, hk.inbound ▸ List.suffix_rfl, hk.neg ▸ List.Subset.refl _,
    fun h => ⟨hk.rv ▸ h, hk.rings⟩, by rw [hk.env]⟩

/-- The running command's accesses of its ring's cursors are cursor accesses (`20_memory.md` R41, R49). -/
theorem State.cursorAccess_cmd (hs : SocketInv s) (hf : s.fsm = .exec) {k : EventKind} (hk : k ≠ .lenRead) {a : Word}
    (ha : a = s.peerCursor ∨ a = s.ownCursor) : s.cursorAccess k a 4 = true := by
  obtain ⟨_, hrv, _⟩ := hs.execReady hf
  cases hc : s.xfer.cmd with
  | write =>
    simp only [State.peerCursor, State.ownCursor, hc] at ha
    exact State.cursorAccess_rings hs hrv hk (.inl rfl) ha.symm
  | read =>
    simp only [State.peerCursor, State.ownCursor, hc] at ha
    exact State.cursorAccess_rings hs hrv hk (.inr rfl) ha

/-- A 32-bit read of the running command is one event, whose bytes are memory's where they are not free. -/
theorem State.loadWord_recorded {k : EventKind} (g : RingView) (race : BitVec 4) {a : Word} (keep : Word → Xfer → Xfer)
    (hk : k.reads = true) (hc : k = .acqRead → s.cursorAccess k a 4 = true) :
    Recorded s (s.loadWord k g race a keep)
      [⟨.controller, s.ghost.cmdNo, k, a, wordBytes (s.cmdMarks g race a) (s.wordRead a (s.cmdMarks g race a)),
        s.cursorAccess k a 4⟩] := by
  have hw : k.writes = false ∧ k ≠ .relWrite := by cases k <;> simp_all [EventKind.reads, EventKind.writes]
  refine .one rfl (by simp [Event.apply, hw.1]) (s.wordRead_readsFrom rfl)
    (State.access_wf _ (by simp) (.inl hk) (fun h => h.elim hc fun h => absurd h hw.2) fun _ => rfl)

/-- The checks after a load record nothing. -/
theorem LoadEnds.recorded {p : Phase} (h : LoadEnds p u t) (hr : Recorded s u es) : Recorded s t es := by
  cases h <;> exact ⟨hr.trace, hr.mem, hr.agrees, hr.wf⟩

/-- The checks after a load end the command or lead to a phase that admits what the load's phase admits. -/
theorem LoadEnds.admits {p : Phase} (h : LoadEnds p u t) (hp : p = .loadOwn ∨ p = .loadLen) :
    t.fsm = .idle ∨ ∀ f, Phase.admits p f → t.xfer.phase.admits f := by
  have hdata : ∀ f, Phase.admits p f → Phase.admits .data f := fun f hf => by
    rcases hp with rfl | rfl <;> exact hf.1
  cases h with
  | raises d => exact .inl rfl
  | faults d => exact .inl rfl
  | toLength hown => exact .inr fun f hf => by subst hown; exact hf
  | toData todo pos => exact .inr hdata

theorem ExecStep.loads_records {k : EventKind} {a : Word} {keep : Word → Xfer → Xfer} (hf : s.fsm = .exec)
    (hp : LoadKind s.xfer.phase k) (hk : ExecKept s t)
    (ht : LoadEnds s.xfer.phase (s.loadWord k s.cmdRing c.race a keep) t) : Records s t := by
  generalize hph : s.xfer.phase = p at hp ht
  have hload : p = .loadOwn ∨ p = .loadLen := by cases hp <;> simp
  have hreads : k.reads = true ∧ k ≠ .acqRead ∧ k.rank = 2 := by cases hp <;> exact ⟨rfl, nofun, rfl⟩
  obtain ⟨hreads, hacq, hrank⟩ := hreads
  refine hk.records_one hf hph (ht.recorded (s.loadWord_recorded _ _ _ hreads (absurd · hacq))) rfl
    (by simp [hrank]) (fun f hfa => ?_) ?_
  · rcases hload with rfl | rfl <;> exact ⟨by simpa only [hrank] using hfa.1, fun h => hfa.2 h.2⟩
  · refine (ht.admits hload).imp_right fun h => ⟨h _ ?_, h⟩
    rcases hload with rfl | rfl <;> exact ⟨hrank.le, by simp⟩

theorem State.performOp_phase (race : Bool) (i : Nat) (op : DataOp) (s : State) :
    (s.performOp race i op).xfer.phase = .data ∨ (s.performOp race i op).xfer.phase = .publish := by
  cases op <;> simp only [State.performOp, State.leave_xfer] <;> split <;> simp

/-- A data access is one event of one byte, which ranks with the plain accesses. -/
theorem State.performOp_records (race : Bool) (i : Nat) (op : DataOp) (hf : s.fsm = .exec) (hp : s.xfer.phase = .data) :
    Records s (s.performOp race i op) := by
  have hnext : ∀ f, Phase.admits .data f → (s.performOp race i op).xfer.phase.admits f := fun f hfa => by
    rcases s.performOp_phase race i op with h | h <;> rw [h] <;> exact hfa
  have hone : ∀ e, Recorded s (s.performOp race i op) [e] → e.cmdNo = s.ghost.cmdNo → e.kind.rank = 2 →
      e.kind ≠ .lenRead → Records s (s.performOp race i op) := fun e hrec hno hrank hlen =>
    (State.performOp_execKept race i op hf).records_one hf hp hrec hno (by omega)
      (fun f hfa => ⟨hrank ▸ hfa, fun h => hlen h.1⟩) (.inr ⟨hnext e hrank.le, hnext⟩)
  cases op with
  | put dst b o => exact hone _ (.one rfl rfl nofun (State.access_wf _ (by simp) (.inr rfl) nofun nofun)) rfl rfl nofun
  | copy src dst srcOverlap dstOverlap =>
    exact hone _ (.one rfl rfl (s.byteRead_readsFrom rfl) (State.access_wf _ (by simp) (.inl rfl) nofun nofun)) rfl rfl
      nofun
  | header src k o =>
    exact hone _ (.one rfl rfl (s.byteRead_readsFrom rfl) (State.access_wf _ (by simp) (.inl rfl) nofun nofun)) rfl rfl
      nofun

/-- A step of a running WRITE or READ. -/
theorem ExecStep.records (h : ExecStep s c t) (hs : SocketInv s) (hf : s.fsm = .exec) : Records s t := by
  have hk := h.kept hf
  cases h with
  | busFails hp => exact (hk.quiet rfl rfl rfl).records
  | acquires keep hp hb hkeep =>
    have hcursor : s.cursorAccess .acqRead s.peerCursor 4 = true :=
      State.cursorAccess_cmd (k := .acqRead) hs hf nofun (.inl rfl)
    refine hk.records_one hf hp (s.loadWord_recorded _ _ _ rfl fun _ => hcursor) rfl (by simp [EventKind.rank])
      (fun f hfa => hfa.elim) (.inr ?_)
    rw [State.loadWord_xfer, (hkeep _ _).2]
    exact ⟨⟨by simp [EventKind.rank], by simp⟩, fun f hfa => hfa.elim⟩
  | loads a keep hp hb hkeep ht => exact ExecStep.loads_records hf hp hk ht
  | performs i hp hb hop => exact State.performOp_records _ i _ hf hp
  | publishFails hp =>
    exact hk.records_one hf hp
      (.one rfl rfl nofun (State.access_wf _ (by simp) (.inr rfl) nofun nofun)) rfl (by simp [EventKind.rank])
      (fun f hfa => ⟨hfa, by simp⟩) (.inl rfl)
  | publishes m v hp hb =>
    refine hk.records_one hf hp
      (.one rfl rfl nofun (State.access_wf _ (by simp) (.inr rfl) ?_ nofun)) rfl (by simp [EventKind.rank])
      (fun f hfa => ⟨Nat.le_succ_of_le hfa, by simp⟩) (.inr ⟨le_refl 3, fun f hfa => Nat.le_succ_of_le hfa⟩)
    exact fun _ => State.cursorAccess_cmd (k := .relWrite) hs hf nofun (.inr rfl)
  | signals r hp =>
    refine hk.records_one hf hp (e := ⟨.controller, s.ghost.cmdNo, .signal, 0, [], false⟩)
      (.one rfl rfl nofun ?_) rfl (by simp [EventKind.rank]) (fun f hfa => ⟨Nat.le_succ_of_le hfa, by simp⟩) (.inl rfl)
    constructor <;> simp

/-! ### The controller's turn in NEG_WAIT -/

/-- What taking a popped entry leaves: the record and the mailbox are as before, the entries held are those and the
popped one, and the rings come from them (`42_negotiation.md` R101, R103). -/
structure EntryTaken (s t : State) (x : Entry) : Prop where
  ghost : t.ghost = s.ghost
  mbx : t.mbx = s.mbx
  env : t.env = s.env
  mem : t.mem = s.mem
  fsm : t.fsm = .negWait ∨ t.fsm = .idle
  ents : t.neg.ents ⊆ s.neg.ents ++ [x]
  rings : t.status.rv = true →
    (s.status.rv = true ∧ t.rings = s.rings) ∨
      (t.rings.lbase ∈ (s.neg.ents ++ [x]).flatMap Entry.ringBases ∧
        t.rings.rbase ∈ (s.neg.ents ++ [x]).flatMap Entry.ringBases)

theorem State.takeEntry_taken (x : Entry) (hf : s.fsm = .negWait) (hfew : s.neg.ents.length < Config.negEntries) :
    EntryTaken s (s.takeEntry x) x := by
  have hfew : s.neg.ents.length < 3 := hfew
  by_cases h2 : s.neg.ents.length = 2
  · rw [State.takeEntry_third x hf h2]
    set u : State := { s with neg := { s.neg with ents := s.neg.ents ++ [x] } }
    cases hj : negJudge u.cfg.rbHdrSize u.neg.ents with
    | error d =>
      rw [State.negEval_error hj, State.negFail_eq]
      exact ⟨rfl, rfl, rfl, rfl, .inr rfl, List.nil_subset _, fun hrv => .inl ⟨hrv, rfl⟩⟩
    | ok g =>
      rw [State.negEval_ok hj, State.negSuccess_eq]
      exact ⟨rfl, rfl, rfl, rfl, .inr rfl, List.nil_subset _, fun _ => .inr (negJudge_ringBases hj)⟩
  · rw [State.takeEntry_few x hf (by omega)]
    exact ⟨rfl, rfl, rfl, rfl, .inl hf, List.Subset.refl _, fun hrv => .inl ⟨hrv, rfl⟩⟩

/-- The pop of an entry is one event, and the entry is taken in the same step. -/
theorem State.popped_records {x : Entry} {xs : List Entry} (hf : s.fsm = .negWait)
    (hfew : s.neg.ents.length < Config.negEntries) (hin : s.mbx.inbound = x :: xs) :
    Records s ((s.popped x xs).takeEntry x) := by
  obtain ⟨hghost, hmbx, henv, hmem, hfsm, hents, hrings⟩ := State.takeEntry_taken (s := s.popped x xs) x hf hfew
  have hsub : s.neg.ents ++ [x] ⊆ s.neg.ents ++ s.mbx.inbound :=
    List.append_subset.2 ⟨List.subset_append_left _ _, by simp [hin]⟩
  have hadmits : ∀ e : Event, e.kind.rank = 0 → ((s.popped x xs).takeEntry x).admits e := fun e he => by
    rcases hfsm with hfsm | hfsm
    · simpa only [State.admits, hfsm] using he
    · exact State.admits_idle hfsm e
  have hbusy : s.fsm ≠ .idle := by simp [hf]
  have hs : ∀ f, s.admits f ↔ f.kind.rank = 0 := fun f => by simp only [State.admits, hf]
  refine ⟨_, .one (congrArg Ghost.trace hghost) hmem nofun (entryEvent_wf _ x (.inr ⟨⟨_, rfl⟩, rfl⟩)),
    .inr (.one (by rw [hghost]; rfl) (fun _ => hbusy) ⟨rfl, nofun, nofun⟩
      (fun _ => ⟨hbusy, hadmits _ rfl, fun f hfa => ⟨((hs f).1 hfa).le, by simp⟩⟩)
      fun f hfa => hadmits f ((hs f).1 hfa)),
    .pop x rfl rfl (by rw [hghost]; rfl) (by rw [hmbx]; exact hin),
    fun e he => List.mem_append.1 (hsub (hents he)),
    fun hrv => (hrings hrv).imp_right fun h => ⟨ringBases_mono hsub h.1, ringBases_mono hsub h.2⟩, ?_⟩
  rw [hghost, henv]
  rfl

theorem State.negFail_quiet (d : Detail) (s : State) : Quiet s (s.negFail d) := by
  rw [State.negFail_eq]
  constructor <;> simp

theorem State.negAbort_quiet (s : State) : Quiet s s.negAbort := by
  rw [State.negAbort_eq]
  split <;> constructor <;> simp [Mailbox.clear]

theorem State.popFailed_quiet (s : State) : Quiet s s.popFailed := by
  rw [State.popFailed, State.negFail_eq]
  constructor <;> simp [List.drop_suffix]

theorem State.negPop_records (hs : SocketInv s) (hf : s.fsm = .negWait) (h : s.negPop c = .next t) : Records s t := by
  rcases State.negPop_cases h with ⟨_, rfl⟩ | ⟨_, _, rfl⟩ | ⟨_, _, _, rfl⟩ | ⟨_, _, x, xs, hin, ⟨_, rfl⟩ | ⟨_, rfl⟩⟩
  · exact s.negAbort_quiet.records
  · exact (s.negFail_quiet _).records
  · exact .refl _
  · exact s.popFailed_quiet.records
  · exact State.popped_records hf (hs.waitFew hf) hin

/-! ### The step -/

theorem State.controllerTurn_records (hi : MachineInv s) (h : s.controllerTurn c = .next t) : Records s t := by
  cases hf : s.fsm with
  | idle =>
    simp only [State.controllerTurn, hf, Host.Outcome.next.injEq] at h
    exact h ▸ .refl s
  | negWait =>
    simp only [State.controllerTurn, hf] at h
    exact State.negPop_records hi.socket hf h
  | exec =>
    obtain ⟨t', ht', hstep⟩ := State.controllerTurn_exec c hi.xfer hf
    cases h.symm.trans ht'
    exact hstep.records hi.socket hf

/-- The machine's invariant does not depend on the schedule. -/
theorem MachineInv.setSched (hi : MachineInv s) (ts : List Turn) : MachineInv (s.setSched ts) :=
  hi.frame (s.setSched ts).env s.ghost s.results s.mbx s.mem s.status.ovr hi.fifo hi.mem

theorem State.takeTurn_records {turn : Turn} (hi : MachineInv s) (h : s.takeTurn turn = .next t) : Records s t := by
  cases turn with
  | controller c => exact State.controllerTurn_records hi h
  | host => exact State.hostTurn_records h
  | partner => cases h; exact s.partnerTurn_records
  | deliverToIrbc n => cases h; exact s.deliverToIrbc_records n
  | deliverToPartner n => cases h; exact s.deliverToPartner_records n
  | timeout => cases h; exact s.timeoutEvent_records
  | reset => cases h; exact s.resetInput_records

/-- What every step adds to the record. -/
theorem step_records (hi : MachineInv s) (h : step s = .next t) : Records s t := by
  rcases step_cases h with ⟨_, h⟩ | ⟨turn, ts, _, h⟩
  · exact State.controllerTurn_records hi h
  · refine Records.of_same (u := s.setSched ts) ?_ rfl rfl (State.takeTurn_records (hi.setSched ts) h)
    constructor <;> rfl

/-- Settles O52: every step's events account for memory. -/
theorem memoryReplaysTheTrace : Obligations.MemoryReplaysTheTrace := by
  unfold Obligations.MemoryReplaysTheTrace
  intro s t hi h
  obtain ⟨es, hrec⟩ := step_records hi h
  exact ⟨es, hrec.recorded.trace, hrec.recorded.mem, hrec.recorded.agrees, hrec.recorded.wf⟩

/-- Settles O54: the events of a step stand in order after those of the trace, and no entry is lost. -/
theorem stepKeepsTheEventOrder : Obligations.StepKeepsTheEventOrder := by
  unfold Obligations.StepKeepsTheEventOrder
  intro s t hi htr h
  obtain ⟨es, hrec⟩ := step_records hi h
  have htr' := hrec.traceInv htr
  exact ⟨htr', hrec.cursorAddrs htr.mailbox htr'.mailbox⟩

end Sys2Proof.Machine
end

section
/-! PROOFS. Why an interleaving is a consistent execution (`20_memory.md` R52): every edge of happens-before goes
forward in the trace, a byte's latest earlier write is what memory holds, and a push comes before the pop of its number.
From it the statement that the machine's interleavings are consistent. -/

namespace Sys2Proof.Machine

variable {x : Execution} {t es : List Event} {m : Mem} {q : List Entry} {e f : Event} {i j n : Nat} {a b : Word}

/-! ### Places in a trace -/

theorem Execution.OfTrace.mem_of_at (hx : x.OfTrace t.reverse m q) (he : x.At i e) : e ∈ t :=
  List.mem_reverse.1 (hx.events ▸ List.mem_of_getElem? he)

/-- A list read backwards, split at one of its places. -/
theorem reverse_split {L : List Event} (h : L[i]? = some e) :
    L.reverse = (L.drop (i + 1)).reverse ++ e :: (L.take i).reverse := by
  obtain ⟨hi, rfl⟩ := List.getElem?_eq_some_iff.1 h
  conv_lhs => rw [← List.take_append_drop i L, List.drop_eq_getElem_cons hi]
  simp

/-- The events before a place are those at the smaller places. -/
theorem mem_take_iff {L : List Event} : e ∈ L.take i ↔ ∃ j < i, L[j]? = some e := by
  simp only [List.mem_iff_getElem?, List.getElem?_take]
  constructor
  · rintro ⟨j, hj⟩
    split at hj
    · exact ⟨j, ‹_›, hj⟩
    · cases hj
  · rintro ⟨j, hj, h⟩
    exact ⟨j, by rw [if_pos hj]; exact h⟩

theorem mailboxAgrees_of_append {newer older : List Event} (h : mailboxAgrees (newer ++ older) q) :
    mailboxAgrees older q := by
  induction newer with
  | nil => exact h
  | cons e es ih =>
    obtain ⟨_, _, hes⟩ := h
    exact ih hes

/-- What the FIFO contract says of the event at a place: of a push its number, of a pop its entry and the numbers of the
pops before it. -/
theorem Execution.OfTrace.mailbox_at (hx : x.OfTrace t.reverse m q) (hq : mailboxAgrees t q) (he : x.At i e) :
    (∀ n, e.kind = .push n → n = q.length + (pushed (x.events.take i)).length) ∧
      ∀ n, e.kind = .pop n → (q.map entryBytes ++ pushed (x.events.take i))[n]? = some e.bytes ∧
        ∀ f ∈ x.events.take i, ∀ k, f.kind = .pop k → k < n := by
  have hrev : ∀ es, (pushed es.reverse).reverse = pushed es := fun es => by simp [pushed, List.filter_reverse]
  have ht : t = x.events.reverse := by rw [hx.events, List.reverse_reverse]
  rw [ht, reverse_split he] at hq
  obtain ⟨hpush, hpop, _⟩ := mailboxAgrees_of_append hq
  refine ⟨fun n hn => ?_, fun n hn => ?_⟩
  · rw [hpush n hn, ← hrev (x.events.take i), List.length_reverse]
  · obtain ⟨hget, hlater⟩ := hpop n hn
    exact ⟨hrev _ ▸ hget, fun f hf => hlater f (List.mem_reverse.2 hf)⟩

/-- What an unmarked read at a place returns is what the older events left in memory. -/
theorem Execution.OfTrace.reads_at (hx : x.OfTrace t.reverse m q) (hr : readsAgree t m) (he : x.At i e) :
    e.ReadsFrom (replay (x.events.take i).reverse m) := by
  have ht : t = x.events.reverse := by rw [hx.events, List.reverse_reverse]
  rw [ht, reverse_split he, readsAgree_append] at hr
  obtain ⟨_, hreads, _⟩ := hr
  exact hreads

/-! ### Happens-before goes forward -/

/-- No event is ordered before itself. -/
theorem Event.not_obBefore_self (e : Event) : ¬ e.obBefore e := by
  rintro (⟨_, _, h | ⟨_, h | ⟨h, h', _⟩⟩⟩ | ⟨h, _, h', _⟩ | ⟨h, h', _⟩)
  · omega
  · omega
  · cases h.symm.trans h'
  · cases h.symm.trans h'
  · cases h.symm.trans h'

theorem Execution.OfTrace.obC_lt (hx : x.OfTrace t.reverse m q) (ho : traceOrdered t) (h : x.obC i j) : i < j := by
  obtain ⟨e, f, he, hf, hob⟩ := h
  have hfwd : t.reverse.Pairwise fun older newer => ¬ newer.obBefore older := List.pairwise_reverse.2 ho
  rw [← hx.events] at hfwd
  by_contra hij
  obtain ⟨hi, rfl⟩ := List.getElem?_eq_some_iff.1 he
  obtain ⟨hj, rfl⟩ := List.getElem?_eq_some_iff.1 hf
  rcases Nat.lt_or_eq_of_le (Nat.le_of_not_lt hij) with hlt | rfl
  · exact List.pairwise_iff_getElem.1 hfwd j i hj hi hlt hob
  · exact Event.not_obBefore_self _ hob

/-- Fewer events push no more entries. -/
theorem pushed_take_le {L : List Event} (h : i ≤ j) : (pushed (L.take i)).length ≤ (pushed (L.take j)).length :=
  (((List.take_prefix_take_left h).sublist.filter _).map _).length_le

/-- The push of a number comes before its pop. -/
theorem Execution.OfTrace.push_lt_pop (hx : x.OfTrace t.reverse m q) (hq : mailboxAgrees t q) (he : x.At i e)
    (hf : x.At j f) (hpush : e.kind = .push n) (hpop : f.kind = .pop n) : i < j := by
  by_contra hij
  have hnum := (hx.mailbox_at hq he).1 n hpush
  have hlt := (List.getElem?_eq_some_iff.1 ((hx.mailbox_at hq hf).2 n hpop).1).1
  have hle := pushed_take_le (L := x.events) (Nat.le_of_not_lt hij)
  simp only [List.length_append, List.length_map] at hlt
  omega

theorem Execution.OfTrace.sw_lt (hx : x.OfTrace t.reverse m q) (hwf : ∀ e ∈ t, e.Wf) (hq : mailboxAgrees t q)
    (h : x.sw i j) : i < j := by
  rcases h with ⟨e, f, _, hf, _, hk, _, _, hrf⟩ | ⟨e, f, n, he, hf, _, _, hpush, hpop⟩
  · have hmem : f ∈ t := List.mem_reverse.1 (hx.events ▸ List.mem_of_getElem? hf)
    obtain ⟨hlen, _⟩ := (hwf f hmem).cursorWord ((hwf f hmem).cursorOnly (.inl hk))
    have hcovers : f.covers f.addr := (inRun_iff _ _ _).2 ⟨0, by omega, by simp⟩
    exact ((hx.rf j f.addr i).1 (hrf _ hcovers)).1
  · exact hx.push_lt_pop hq he hf hpush hpop

/-- The trace is an order that happens-before respects. -/
theorem Execution.OfTrace.hb_lt (hx : x.OfTrace t.reverse m q) (ho : traceOrdered t) (hwf : ∀ e ∈ t, e.Wf)
    (hq : mailboxAgrees t q) (h : x.hb i j) : i < j := by
  have hedge : ∀ {i j}, x.hbEdge i j → i < j := by
    rintro i j (h | h | h | h)
    · exact hx.obC_lt ho h
    · exact ((hx.obP i j).1 h).1
    · exact ((hx.obH i j).1 h).1
    · exact hx.sw_lt hwf hq h
  induction h with
  | single h => exact hedge h
  | tail _ h ih => exact ih.trans (hedge h)

/-! ### The latest earlier write -/

/-- A byte that some earlier event writes reads from the latest such event. -/
theorem Execution.OfTrace.rf_of_written (hx : x.OfTrace t.reverse m q) (hij : i < j) (hw : x.WritesAt i a) :
    ∃ w, x.rf j a = some w := by
  classical
  have hle : i ≤ j - 1 := by omega
  have hfound := Nat.findGreatest_spec (P := fun v => x.WritesAt v a) hle hw
  have hbound := Nat.findGreatest_le (P := fun v => x.WritesAt v a) (j - 1)
  exact ⟨_, (hx.rf j a _).2 ⟨by omega, hfound, fun v hv hvj => Nat.findGreatest_is_greatest hv (by omega)⟩⟩

theorem wf_replay (hm : Mem.wf m = true) (es : List Event) : Mem.wf (replay es m) = true := by
  induction es with
  | nil => exact hm
  | cons e es ih =>
    simp only [replay, Event.apply]
    split
    · exact Mem.wf_writeBytes ih _ _
    · exact ih

/-- A byte string's write leaves its byte k at the k-th address. -/
theorem Mem.read8_writeBytes_at {m : Mem} (h : Mem.wf m = true) {bs : List Byte} (hlen : bs.length ≤ 2 ^ 32) {k : Nat}
    {v : Byte} (hk : bs[k]? = some v) (a : Word) : (m.writeBytes a bs).read8 (a + BitVec.ofNat 32 k) = v := by
  induction bs generalizing m a k with
  | nil => simp at hk
  | cons b bs ih =>
    have hlen' : bs.length < 2 ^ 32 := by simpa using hlen
    have hw := Mem.wf_write8 h a b
    have hnext : ∀ j, a + 1 + BitVec.ofNat 32 j = a + BitVec.ofNat 32 (j + 1) := fun j => by
      rw [BitVec.ofNat_add, BitVec.add_assoc, BitVec.add_comm 1]
      rfl
    cases k with
    | zero =>
      cases hk
      rw [Mem.writeBytes, Mem.read8_writeBytes_of_not_inRun hw, Mem.read8_write8 h, if_pos (by simp)]
      intro j hj
      rw [hnext]
      bv_omega
    | succ k =>
      rw [Mem.writeBytes, ← hnext]
      exact ih hw hlen'.le (by simpa using hk) (a + 1)

/-- An event leaves in memory the bytes it writes. -/
theorem Event.read8_apply {c : EventByte} (hm : Mem.wf m = true) (hlen : f.bytes.length ≤ 2 ^ 32)
    (hw : f.kind.writes = true) (hc : f.byteAt a = some c) : (f.apply m).read8 a = c.val := by
  obtain ⟨k, rfl, hk⟩ := Event.byteAt_some hc
  simp only [Event.apply, if_pos hw]
  exact Mem.read8_writeBytes_at hm (by simpa using hlen) (by rw [List.getElem?_map, hk]; rfl) _

/-- Events that do not write a byte leave it. -/
theorem read8_replay (hm : Mem.wf m = true) (h : ∀ e ∈ es, e.kind.writes = true → ¬ e.covers a) :
    (replay es m).read8 a = m.read8 a := by
  induction es with
  | nil => rfl
  | cons e es ih =>
    rw [← ih fun f hf => h f (List.mem_cons_of_mem _ hf)]
    simp only [replay, Event.apply]
    split
    · rename_i hw
      refine Mem.read8_writeBytes_of_not_inRun (wf_replay hm es) _ _ _ fun k hk ha => ?_
      exact h e List.mem_cons_self hw ((inRun_iff _ _ _).2 ⟨k, by simpa using hk, ha⟩)
    · rfl

/-- Memory at a place holds the initial byte where the byte reads from no write. -/
theorem Execution.OfTrace.read8_of_rf_none (hx : x.OfTrace t.reverse m q) (hm : Mem.wf m = true)
    (h : x.rf i a = none) : (replay (x.events.take i).reverse m).read8 a = x.init a := by
  rw [hx.init]
  refine read8_replay hm fun e he hw hc => ?_
  obtain ⟨j, hj, hat⟩ := mem_take_iff.1 (List.mem_reverse.1 he)
  obtain ⟨w, hsome⟩ := hx.rf_of_written hj ⟨e, hat, hw, hc⟩
  cases h.symm.trans hsome

/-- Memory at a place holds what the write left that the byte reads from. -/
theorem Execution.OfTrace.read8_of_rf_some (hx : x.OfTrace t.reverse m q) (hwf : ∀ e ∈ t, e.Wf) (hm : Mem.wf m = true)
    {c : EventByte} (h : x.rf i a = some j) (hf : x.At j f) (hc : f.byteAt a = some c) :
    (replay (x.events.take i).reverse m).read8 a = c.val := by
  obtain ⟨hji, ⟨f', hf', hw, _⟩, hlatest⟩ := (hx.rf i a j).1 h
  cases hf.symm.trans hf'
  have hmem := hx.mem_of_at hf
  have hget : (x.events.take i)[j]? = some f := by rw [List.getElem?_take, if_pos hji]; exact hf
  rw [reverse_split hget, replay_append, read8_replay, replay]
  · exact Event.read8_apply (wf_replay hm _) (hwf f hmem).distinct hw hc
  · exact wf_replay hm _
  · intro g hg hgw hgc
    obtain ⟨k, hk⟩ := List.mem_iff_getElem?.1 (List.mem_reverse.1 hg)
    rw [List.getElem?_drop, List.getElem?_take] at hk
    split at hk
    · exact hlatest _ (by omega) ‹_› ⟨g, hk, hgw, hgc⟩
    · cases hk

/-! ### What makes the execution consistent -/

theorem Execution.OfTrace.moTotal (hx : x.OfTrace t.reverse m q) : x.MoTotal where
  writes := fun a v w h => ((hx.mo a v w).1 h).2
  irrefl := fun a w h => Nat.lt_irrefl w ((hx.mo a w w).1 h).1
  trans := fun a u v w h h' => by
    obtain ⟨huv, hu, _⟩ := (hx.mo a u v).1 h
    obtain ⟨hvw, _, hw⟩ := (hx.mo a v w).1 h'
    exact (hx.mo a u w).2 ⟨huv.trans hvw, hu, hw⟩
  total := fun a v w hv hw hne => by
    rcases Nat.lt_or_gt_of_ne hne with h | h
    · exact .inl ((hx.mo a v w).2 ⟨h, hv, hw⟩)
    · exact .inr ((hx.mo a w v).2 ⟨h, hw, hv⟩)

/-- A byte that is in no data race and no overlap reads memory. -/
theorem Execution.OfTrace.rfValues (hx : x.OfTrace t.reverse m q) (hwf : ∀ e ∈ t, e.Wf) (hr : readsAgree t m)
    (hm : Mem.wf m = true) (hj : x.RacesJustified) : x.RfValues := by
  intro i e a b he hreads hb hoverlap hrace
  have hfree : b.mark.free = false := by
    have hclear : b.mark.race = false := Bool.eq_false_iff.2 fun h => hrace (hj i e a b he hb h)
    simp [Mark.free, hclear, hoverlap]
  rw [hx.reads_at hr he hreads a b hb hfree]
  split
  · exact hx.read8_of_rf_none hm ‹_›
  · exact fun f c hf hc _ _ => hx.read8_of_rf_some hwf hm ‹_› hf hc

theorem Execution.ownOrder_of_inOrder {ag : Agent} {ob : Nat → Nat → Prop} (h : ∀ i j, ob i j ↔ x.InOrder ag i j) :
    x.OwnOrder ag ob :=
  ⟨fun i j => (h i j).1, fun i j _ ho _ _ => (h i j).2 ho, fun i j _ ho _ _ => (h i j).2 ho,
    fun i j _ ho _ _ => (h i j).2 ho⟩

theorem Execution.OfTrace.pushesPopped (hx : x.OfTrace t.reverse m q) (ho : traceOrdered t) (hwf : ∀ e ∈ t, e.Wf)
    (hq : mailboxAgrees t q) : x.PushesPopped where
  numbered := fun i e n he hk => hx.fifo ▸ (hx.mailbox_at hq he).1 n hk
  returned := fun j f n hf hk => by
    obtain ⟨hget, _⟩ := (hx.mailbox_at hq hf).2 n hk
    have hsplit : pushed x.events = pushed (x.events.take j) ++ pushed (x.events.drop j) := by
      rw [← pushed_append, List.take_append_drop]
    rw [hx.fifo, hsplit, ← List.append_assoc, List.getElem?_append_left (List.getElem?_eq_some_iff.1 hget).1]
    exact hget
  inOrder := fun j k f g n p hf hg hn hp hjk =>
    ((hx.mailbox_at hq hg).2 p hp).2 f (mem_take_iff.2 ⟨j, hjk, hf⟩) n hn
  pushFirst := fun _ j e f n he hf hpush hpop hhb =>
    Nat.lt_asymm (hx.push_lt_pop hq he hf hpush hpop) (hx.hb_lt ho hwf hq hhb)

theorem Execution.OfTrace.coherent (hx : x.OfTrace t.reverse m q) (ho : traceOrdered t) (hwf : ∀ e ∈ t, e.Wf)
    (hq : mailboxAgrees t q) : x.Coherent where
  writesAgree := fun a v w hv hw h => (hx.mo a v w).2 ⟨hx.hb_lt ho hwf hq h, hv, hw⟩
  readsFresh := fun a v i hv _ h => by
    have hlt := hx.hb_lt ho hwf hq h
    obtain ⟨w, hw⟩ := hx.rf_of_written hlt hv
    refine ⟨by simp [hw], fun u hu hrf => ?_⟩
    obtain ⟨_, _, hlatest⟩ := (hx.rf i a u).1 hrf
    exact hlatest v ((hx.mo a u v).1 hu).1 hlt hv

/-- Two aligned words that share a byte are one word. -/
theorem Event.covers_of_aligned (he : e.bytes.length = 4 ∧ e.addr.toNat % 4 = 0)
    (hf : f.bytes.length = 4 ∧ f.addr.toNat % 4 = 0) (hea : e.covers a) (hfa : f.covers a) (hfb : f.covers b) :
    e.covers b := by
  obtain ⟨helen, healign⟩ := he
  obtain ⟨hflen, hfalign⟩ := hf
  simp only [Event.covers, inRun, helen, hflen, decide_eq_true_eq] at *
  have haddr : e.addr = f.addr := by bv_omega
  rwa [haddr]

/-- The bytes of a cursor read that only aligned words write have one latest write. -/
theorem Execution.OfTrace.atomicCursors (hx : x.OfTrace t.reverse m q) (hwf : ∀ e ∈ t, e.Wf) : x.AtomicCursors := by
  intro i f hf _ hcursor hwords a b ha hb
  have hmem := hx.mem_of_at hf
  have hword := (hwf f hmem).cursorWord hcursor
  have hwrites : ∀ {a b}, f.covers a → f.covers b → ∀ v, x.WritesAt v a → x.WritesAt v b := by
    rintro a b ha hb v ⟨e, he, hw, hc⟩
    obtain ⟨_, hlen, halign⟩ := hwords v e a he hw hc ha
    exact ⟨e, he, hw, Event.covers_of_aligned ⟨hlen, halign⟩ hword hc ha hb⟩
  have hiff : ∀ v, x.WritesAt v a ↔ x.WritesAt v b := fun v => ⟨hwrites ha hb v, hwrites hb ha v⟩
  exact Option.ext fun w => by simp only [hx.rf, hiff]

theorem Execution.OfTrace.consistent (hx : x.OfTrace t.reverse m q) (ho : traceOrdered t) (hwf : ∀ e ∈ t, e.Wf)
    (hr : readsAgree t m) (hq : mailboxAgrees t q) (hm : Mem.wf m = true) (hj : x.RacesJustified) : x.Consistent where
  events := fun i e he => hwf e (hx.mem_of_at he)
  moTotal := hx.moTotal
  rfWrites := fun i a w _ h => by
    obtain ⟨_, hw, _⟩ := (hx.rf i a w).1 h
    exact hw
  rfValues := hx.rfValues hwf hr hm hj
  ownOrders := ⟨Execution.ownOrder_of_inOrder hx.obP, Execution.ownOrder_of_inOrder hx.obH⟩
  pushesPopped := hx.pushesPopped ho hwf hq
  noFutureRead := fun i a w _ h hhb => Nat.lt_asymm ((hx.rf i a w).1 h).1 (hx.hb_lt ho hwf hq hhb)
  coherent := hx.coherent ho hwf hq
  atomicCursors := hx.atomicCursors hwf
  moAgrees := fun a v w h hhb => Nat.lt_asymm ((hx.mo a v w).1 h).1 (hx.hb_lt ho hwf hq hhb)

/-! ### A pop and its push -/

/-- Each entry pushed has its push, with as many pushes before it as entries. -/
theorem exists_push {L : List Event} {k : Nat} {bs : List EventByte} (h : (pushed L)[k]? = some bs) :
    ∃ i e, L[i]? = some e ∧ e.kind.isPush = true ∧ e.bytes = bs ∧ (pushed (L.take i)).length = k := by
  induction L generalizing k with
  | nil => simp [pushed] at h
  | cons e L ih =>
    by_cases hp : e.kind.isPush = true
    · have hcons : ∀ es, pushed (e :: es) = e.bytes :: pushed es := fun es => by simp [pushed, hp]
      rw [hcons] at h
      cases k with
      | zero => exact ⟨0, e, rfl, hp, by simpa using h, rfl⟩
      | succ k =>
        obtain ⟨i, f, hf, hpf, hb, hlen⟩ := ih (by simpa using h)
        exact ⟨i + 1, f, hf, hpf, hb, by rw [List.take_succ_cons, hcons, List.length_cons, hlen]⟩
    · have hcons : ∀ es, pushed (e :: es) = pushed es := fun es => by simp [pushed, hp]
      rw [hcons] at h
      obtain ⟨i, f, hf, hpf, hb, hlen⟩ := ih h
      exact ⟨i + 1, f, hf, hpf, hb, by rw [List.take_succ_cons, hcons, hlen]⟩

/-- The pop of an entry that did not enter before the start has its push, and synchronises with it. -/
theorem Execution.OfTrace.pop_has_push (hx : x.OfTrace t.reverse m q) (hwf : ∀ e ∈ t, e.Wf) (hq : mailboxAgrees t q)
    (hf : x.At j f) (hk : f.kind = .pop n) (hn : q.length ≤ n) :
    ∃ i e, x.At i e ∧ e.kind = .push n ∧ e.bytes = f.bytes ∧ x.hb i j := by
  obtain ⟨hget, _⟩ := (hx.mailbox_at hq hf).2 n hk
  rw [List.getElem?_append_right (by simpa using hn), List.length_map] at hget
  obtain ⟨i, e, he, hpush, hbytes, hlen⟩ := exists_push hget
  rw [List.getElem?_take] at he
  split at he
  · rename_i hij
    obtain ⟨p, hp⟩ := EventKind.isPush_iff.1 hpush
    have hnum := (hx.mailbox_at hq he).1 p hp
    rw [List.take_take, min_eq_left hij.le] at hlen
    obtain rfl : p = n := by omega
    exact ⟨i, e, he, hp, hbytes, .single (.inr (.inr (.inr (.inr
      ⟨e, f, p, he, hf, (hwf e (hx.mem_of_at he)).pushes p hp, (hwf f (hx.mem_of_at hf)).pops p hk, hp, hk⟩))))⟩
  · cases he

/-- Settles O53: happens-before goes forward in the trace, so that reading the latest earlier write is consistent. -/
theorem interleavingsAreConsistent : Obligations.InterleavingsAreConsistent := by
  unfold Obligations.InterleavingsAreConsistent
  intro t m q x ho hwf hr hq hm hx hj
  exact ⟨hx.consistent ho hwf hr hq hm hj, fun j f n hf hk hn => hx.pop_has_push hwf hq hf hk hn⟩

end Sys2Proof.Machine
end

section
/-! PROOFS. The decoders (`30_encoding.md` R63 to R69): which words an instruction is decoded from, which row of the
opcode map a CMD word matches, which CMD words are illegal, and the step of a CMD write. -/

namespace Sys2Proof.Machine

variable {c : Word} {e : Entry} {i : Instr}

/-! ### Decoding and encoding -/

/-- A CMD word decodes to the instruction whose only word it is. -/
theorem decodeCmd_eq_ok_iff : decodeCmd c = .ok i ↔ encode i = [c] := by
  constructor
  · intro h
    rw [firstWord_of_decodeCmd h]
    rcases decodeCmd_ok h with ⟨rxie, rfl⟩ | rfl | rfl | rfl | ⟨both, rfl⟩ | rfl | rfl <;> rfl
  · intro h
    cases i <;> cases h
    case openSocket.refl rxie => cases rxie <;> rfl
    case reset.refl both => cases both <;> rfl
    all_goals rfl

/-- A FIFO entry decodes to the instruction whose two words it holds. -/
theorem decodeEntry_eq_ok_iff : decodeEntry e = .ok i ↔ encode i = [e.cmd, e.data] := by
  constructor
  · intro h
    rcases decodeEntry_ok h with ⟨d, rfl, rfl⟩ | ⟨d, rfl, rfl⟩ | ⟨d, rfl, rfl⟩ <;> rfl
  · obtain ⟨cmd, data⟩ := e
    intro h
    cases i <;> cases h <;> rfl

/-- An instruction has one word or two (`30_encoding.md` R63). -/
theorem encode_length (i : Instr) : (encode i).length = 1 ∨ (encode i).length = 2 := by
  cases i <;> simp [encode]

/-! ### The opcode map -/

/-- Every row's mask covers the opcode field, so a row accepts only words with its own opcode. -/
theorem CmdRow.opcField_of_accepts {r : CmdRow} (hr : r ∈ cmdTable) (h : r.accepts c = true) :
    opcField c = opcField r.pat := by
  have hmask : ∀ r ∈ cmdTable, opcField r.mask = BitVec.allOnes 4 := by decide
  have hpat : c &&& r.mask = r.pat := by simpa [CmdRow.accepts] using h
  calc opcField c = opcField c &&& opcField r.mask := by rw [hmask r hr, BitVec.and_allOnes]
    _ = opcField (c &&& r.mask) := BitVec.extractLsb'_and.symm
    _ = opcField r.pat := by rw [hpat]

/-- At most one row accepts a word: the rows' opcodes differ. -/
theorem cmdTable_accepts_unique {j k : Fin cmdTable.length} (hj : (cmdTable.get j).accepts c = true)
    (hk : (cmdTable.get k).accepts c = true) : j = k := by
  have hopc : ∀ j k : Fin cmdTable.length,
      opcField (cmdTable.get j).pat = opcField (cmdTable.get k).pat → j = k := by decide
  refine hopc j k ?_
  rw [← CmdRow.opcField_of_accepts (cmdTable.get_mem j) hj, ← CmdRow.opcField_of_accepts (cmdTable.get_mem k) hk]

/-- A CMD word is the command of the row that accepts it, and of no other (`30_encoding.md` R65). -/
theorem decodeCmd_eq_ok_iff_row : decodeCmd c = .ok i ↔ ∃ r ∈ cmdTable, r.accepts c = true ∧ i = r.build c := by
  simp only [decodeCmd]
  cases hfind : cmdTable.find? (fun r => r.accepts c) with
  | none =>
    have hnone := List.find?_eq_none.1 hfind
    exact ⟨nofun, fun ⟨r, hr, hacc, _⟩ => absurd hacc (hnone r hr)⟩
  | some q =>
    have hq : q.accepts c = true := List.find?_some (p := fun r : CmdRow => r.accepts c) hfind
    have hmem := List.mem_of_find?_eq_some hfind
    constructor
    · intro h
      cases h
      exact ⟨q, hmem, hq, rfl⟩
    · rintro ⟨r, hr, hacc, rfl⟩
      obtain ⟨j, rfl⟩ := List.mem_iff_get.1 hmem
      obtain ⟨k, rfl⟩ := List.mem_iff_get.1 hr
      rw [cmdTable_accepts_unique hq hacc]

/-! ### Illegal CMD words -/

/-- A CMD word is illegal iff it is no command's. -/
theorem decodeCmd_illegal_iff : decodeCmd c = .error .illegalCmd ↔ ∀ i, decodeCmd c ≠ .ok i := by
  simp only [decodeCmd]
  split <;> simp

/-- The CMD word with the given fields and no reserved bit (`30_encoding.md` R64). -/
def cmdWordOf (opc : BitVec 4) (both rxie : Bool) : Word :=
  0#26 ++ BitVec.ofBool rxie ++ BitVec.ofBool both ++ opc

/-- A word with no reserved bit is made of its three fields. -/
theorem eq_cmdWordOf (h : c.extractLsb' 6 26 = 0#26) :
    c = cmdWordOf (c.extractLsb' 0 4) (c.getLsbD 4) (c.getLsbD 5) := by
  apply BitVec.eq_of_getLsbD_eq
  intro k hk
  rw [cmdWordOf, BitVec.getLsbD_append, BitVec.getLsbD_append, BitVec.getLsbD_append]
  rcases (by omega : k < 4 ∨ k = 4 ∨ k = 5 ∨ 6 ≤ k) with h4 | rfl | rfl | h6
  · simp [h4]
  · simp
  · simp
  · obtain ⟨j, rfl⟩ := Nat.exists_eq_add_of_le h6
    have hbit := congrArg (fun v => v.getLsbD j) h
    simpa [show j < 26 by omega, show ¬ 6 + j < 4 by omega, show 6 + j - 4 = 2 + j by omega] using hbit

/-- A CMD word that decodes has no reserved bit. -/
theorem reserved_of_decodeCmd (h : decodeCmd c = .ok i) : c.extractLsb' 6 26 = 0#26 := by
  rw [firstWord_of_decodeCmd h]
  rcases decodeCmd_ok h with ⟨rxie, rfl⟩ | rfl | rfl | rfl | ⟨both, rfl⟩ | rfl | rfl
  · cases rxie <;> rfl
  · rfl
  · rfl
  · rfl
  · cases both <;> rfl
  · rfl
  · rfl

/-- Which words without a reserved bit are illegal, for each of the 64 values of the fields (`30_encoding.md` R67). -/
theorem decodeCmd_cmdWordOf_illegal_iff (opc : BitVec 4) (both rxie : Bool) :
    decodeCmd (cmdWordOf opc both rxie) = .error .illegalCmd ↔
      (opc = 0#4 ∨ 8#4 ≤ opc ∨ (both = true ∧ opc ≠ 5#4) ∨ (rxie = true ∧ opc ≠ 1#4)) := by
  revert opc both rxie
  decide

/-- The illegal words by their fields (`30_encoding.md` R67). -/
theorem decodeCmd_illegal_iff_fields : decodeCmd c = .error .illegalCmd ↔
    (c.extractLsb' 0 4 = 0#4 ∨ 8#4 ≤ c.extractLsb' 0 4 ∨ c.extractLsb' 6 26 ≠ 0#26 ∨
      (c.getLsbD 4 = true ∧ c.extractLsb' 0 4 ≠ 5#4) ∨ (c.getLsbD 5 = true ∧ c.extractLsb' 0 4 ≠ 1#4)) := by
  by_cases hres : c.extractLsb' 6 26 = 0#26
  · have hiff := decodeCmd_cmdWordOf_illegal_iff (c.extractLsb' 0 4) (c.getLsbD 4) (c.getLsbD 5)
    rw [← eq_cmdWordOf hres] at hiff
    simpa only [hres, ne_eq, not_true_eq_false, false_or] using hiff
  · have hillegal := decodeCmd_illegal_iff.2 fun i h => hres (reserved_of_decodeCmd h)
    exact iff_of_true hillegal (.inr (.inr (.inl hres)))

/-! ### The CMD write -/

/-- A legal CMD word written is its instruction's meaning. -/
theorem State.cmdWrite_ok (s : State) (h : decodeCmd c = .ok i) : s.cmdWrite c = exec i s := by
  simp only [State.cmdWrite, h]

/-- An illegal CMD word written at BUSY = 0 is rejected with ILLEGAL_CMD (`30_encoding.md` R67). -/
theorem State.cmdWrite_illegal_idle {s : State} (h : decodeCmd c = .error .illegalCmd) (hs : s.fsm = .idle) :
    s.cmdWrite c = .next (s.rejected (opcField c) .illegalCmd) := by
  simp only [State.cmdWrite, h, State.illegalCmd, State.atIdle_idle _ hs, State.raise_setLopc _ _ hs]

/-- An illegal CMD word written at BUSY = 1 sets OVR alone (`30_encoding.md` R67). -/
theorem State.cmdWrite_illegal_busy {s : State} (h : decodeCmd c = .error .illegalCmd) (hs : s.fsm ≠ .idle) :
    s.cmdWrite c = .next s.overrun := by
  simp only [State.cmdWrite, h, State.illegalCmd, State.atIdle_busy _ hs]

/-- A step with the host's aligned 32-bit write to CMD is the CMD write, the turn and the act taken and the access
answered (log 5). -/
theorem step_of_host_cmdWrite {s : State} {ts : List Turn} {acts : List HostAct} (hsched : s.env.sched = .host :: ts)
    (hprog : s.env.hostProg = .regWrite (Access.at32 0x00) c :: acts) :
    step s = ((s.setSched ts).hostWrote acts).cmdWrite c := by
  have hturn : step s = (s.setSched ts).hostTurn := by simp only [step, State.nextTurn, hsched, State.takeTurn]
  have hact : (s.setSched ts).hostTurn = (s.setSched ts).hostAct (.regWrite (Access.at32 0x00) c) acts := by
    simp only [State.hostTurn, State.setSched, hprog]
  rw [hturn, hact]
  rfl

/-! ### The statements -/

/-- Settles O1: the two decoders invert the encoder, and no instruction has another number of words. -/
theorem decodeAndEncodeAgree : Obligations.DecodeAndEncodeAgree := by
  unfold Obligations.DecodeAndEncodeAgree
  intro ws i
  rw [eq_comm (a := ws)]
  match ws with
  | [c] => exact decodeCmd_eq_ok_iff
  | [c, d] => exact decodeEntry_eq_ok_iff
  | [] => exact iff_of_false nofun fun h => by simpa [h] using encode_length i
  | _ :: _ :: _ :: _ => exact iff_of_false nofun fun h => by simpa [h] using encode_length i

/-- Settles O2: the decoder finds the accepting row, and the opcodes tell the rows apart. -/
theorem opcodeMapMatchesExactly : Obligations.OpcodeMapMatchesExactly := by
  unfold Obligations.OpcodeMapMatchesExactly
  refine fun c => ⟨fun i => ?_, fun j k => cmdTable_accepts_unique⟩
  rw [decodeCmd_eq_ok_iff_row]
  simp only [cmdTable, CmdRow.accepts, beq_iff_eq, List.exists_mem_cons_iff, List.not_mem_nil, false_and,
    exists_false, or_false]
  exact Iff.rfl

/-- Settles O3: the fields of an illegal word, and its CMD write by BUSY. -/
theorem illegalCommandWords : Obligations.IllegalCommandWords := by
  unfold Obligations.IllegalCommandWords
  refine fun c => ⟨decodeCmd_illegal_iff_fields, fun h s => ⟨fun hs => ?_, fun hs => ?_⟩⟩
  · exact State.cmdWrite_illegal_idle h hs
  · exact State.cmdWrite_illegal_busy h hs

/-- Settles O4: the entry decoder's cases. -/
theorem tagsComparedWhole : Obligations.TagsComparedWhole := by
  unfold Obligations.TagsComparedWhole
  refine fun c d => ⟨rfl, rfl, rfl, fun hlocal hremote hend => ?_⟩
  simp only [decodeEntry, if_neg (show c ≠ tagLocal from hlocal), if_neg (show c ≠ tagRemote from hremote),
    if_neg (show c ≠ tagEnd from hend)]

/-- Settles O5: the decoders on the six words. -/
theorem sampleWordsDecode : Obligations.SampleWordsDecode := by
  unfold Obligations.SampleWordsDecode
  decide

/-- Settles O6: the host's turn is the CMD write, and a legal word's CMD write is its instruction's meaning. -/
theorem stepRunsTheWrittenCommand : Obligations.StepRunsTheWrittenCommand := by
  unfold Obligations.StepRunsTheWrittenCommand
  intro s ts acts c i hsched hprog hdec
  rw [step_of_host_cmdWrite hsched hprog, State.cmdWrite_ok _ hdec]
  rfl

end Sys2Proof.Machine
end

section
/-! PROOFS. The descriptor parser (`40_descriptor.md` R80 to R82): what the base pointer and the capacity of a parsed
descriptor are, and the limits of a valid descriptor's capacity. -/

namespace Sys2Proof.Machine

variable {hdr : Nat} {word : Word}

/-! ### The fields of a parsed descriptor -/

/-- Masking with 0xFFFFFFE0 clears the low five bits and keeps the other 27. -/
theorem toNat_and_baseMask (word : Word) : (word &&& 0xFFFFFFE0).toNat = word.toNat / 32 * 32 := by
  have hhigh : (word &&& 0xFFFFFFE0).toNat / 32 = word.toNat / 32 := by
    calc (word &&& 0xFFFFFFE0).toNat / 2 ^ 5
      _ = word.toNat / 2 ^ 5 &&& (2 ^ 27 - 1) := by rw [BitVec.toNat_and, Nat.and_div_two_pow]; rfl
      _ = word.toNat / 2 ^ 5 % 2 ^ 27 := Nat.and_two_pow_sub_one_eq_mod _ 27
      _ = word.toNat / 2 ^ 5 := Nat.mod_eq_of_lt (by have := word.isLt; omega)
  have hlow : (word &&& 0xFFFFFFE0).toNat % 32 = 0 := by
    calc (word &&& 0xFFFFFFE0).toNat % 2 ^ 5
      _ = word.toNat % 2 ^ 5 &&& 0 := by rw [BitVec.toNat_and, Nat.and_mod_two_pow]; rfl
      _ = 0 := Nat.and_zero _
  omega

/-- A parsed descriptor's base pointer is the word rounded down to a multiple of 32 (`40_descriptor.md` R80). -/
theorem descParse_base_toNat (hdr : Nat) (word : Word) :
    (descParse hdr word).base.toNat = word.toNat / 32 * 32 :=
  toNat_and_baseMask word

/-- A parsed descriptor's capacity is the ring size that the word's low five bits give, less the header
(`40_descriptor.md` R80). -/
theorem descParse_cap (hdr : Nat) (word : Word) :
    (descParse hdr word).cap = ((2 ^ (word.toNat % 32) : Nat) : Int) - hdr := by
  have hfield : (word.extractLsb' 0 5).toNat = word.toNat % 32 := by simp
  rw [descParse, hfield]

/-- A descriptor is valid exactly when its ring size is above the header size (`40_descriptor.md` R81). -/
theorem descParse_cap_pos_iff : 0 < (descParse hdr word).cap ↔ hdr < 2 ^ (word.toNat % 32) := by
  rw [descParse_cap, Int.sub_pos, Nat.cast_lt]

/-! ### A valid descriptor's capacity -/

/-- A power of two that is at least 16 is a multiple of 16. -/
theorem two_pow_mod_sixteen {n : Nat} (h : 16 ≤ 2 ^ n) : 2 ^ n % 16 = 0 := by
  have hn : 4 ≤ n := (Nat.pow_le_pow_iff_right (by decide : 1 < 2)).1 (h : 2 ^ 4 ≤ 2 ^ n)
  exact Nat.mod_eq_zero_of_dvd (Nat.pow_dvd_pow 2 hn)

/-- A ring size is at most `2^31`, so a capacity is at most `2^31 - RB_HDR_SIZE` (`40_descriptor.md` R82). -/
theorem descParse_cap_le (hdr : Nat) (word : Word) : (descParse hdr word).cap ≤ 2 ^ 31 - (hdr : Int) := by
  have hsize : 2 ^ (word.toNat % 32) ≤ 2 ^ 31 := Nat.pow_le_pow_right (by decide) (by omega)
  rw [descParse_cap]
  omega

/-- A valid descriptor's capacity is a multiple of 16, as the ring size and the header size are
(`40_descriptor.md` R82). -/
theorem descParse_cap_mod_sixteen (halign : hdr % 16 = 0) (hleast : 16 ≤ hdr) (hvalid : 0 < (descParse hdr word).cap) :
    (descParse hdr word).cap % 16 = 0 := by
  have hsize : 2 ^ (word.toNat % 32) % 16 = 0 :=
    two_pow_mod_sixteen (hleast.trans (descParse_cap_pos_iff.1 hvalid).le)
  rw [descParse_cap]
  omega

/-! ### The statement -/

/-- Settles O24: the three fields of a parsed descriptor, and the limits of a positive capacity. -/
theorem descriptorParsesExactly : Obligations.DescriptorParsesExactly := by
  unfold Obligations.DescriptorParsesExactly
  refine fun hdr word => ⟨rfl, descParse_base_toNat hdr word, ?_, fun halign hleast hvalid => ?_⟩
  · simpa using descParse_cap hdr word
  · have hle := descParse_cap_le hdr word
    exact ⟨descParse_cap_mod_sixteen halign hleast hvalid, hle, by omega⟩

end Sys2Proof.Machine
end

section
/-! PROOFS. The arithmetic of ring positions (`41_ring_primitives.md` R90 to R96): rounding a position up, what moving a
cursor forward does to the free space and to the available data, and the cursors that WRITE and READ publish. -/

namespace Sys2Proof.Machine

variable {w r cap k m n p : Nat}

/-! ### Rounding up -/

theorem le_alignUp16 (n : Nat) : n ≤ alignUp16 n := by
  simp only [alignUp16]
  omega

theorem alignUp16_mod_sixteen (n : Nat) : alignUp16 n % 16 = 0 := by simp [alignUp16]

/-- The rounded value is the least multiple of 16 (`00_scope.md` R8). -/
theorem alignUp16_le_iff (hm : m % 16 = 0) : alignUp16 n ≤ m ↔ n ≤ m := by
  simp only [alignUp16]
  omega

/-- Rounding up commutes with adding a multiple of 16. -/
theorem alignUp16_add (hm : m % 16 = 0) (n : Nat) : alignUp16 (m + n) = m + alignUp16 n := by
  simp only [alignUp16]
  omega

/-- ALIGN_POS is rounding up, with the capacity itself taken to 0 (`41_ring_primitives.md` R90). -/
theorem alignPos_eq_ite (p cap : Nat) : alignPos p cap = if alignUp16 p = cap then 0 else alignUp16 p := rfl

/-- The single test at the capacity is a reduction modulo it, since no rounded position is above it. -/
theorem alignPos_eq_mod (hp : p < cap) (hcap : cap % 16 = 0) : alignPos p cap = alignUp16 p % cap := by
  rw [alignPos_eq_ite]
  split
  · next h => rw [h, Nat.mod_self]
  · next h => exact (Nat.mod_eq_of_lt (((alignUp16_le_iff hcap).2 hp.le).lt_of_ne h)).symm

theorem alignPos_lt (hp : p < cap) (hcap : cap % 16 = 0) : alignPos p cap < cap := by
  rw [alignPos_eq_mod hp hcap]
  exact Nat.mod_lt _ (by omega)

theorem alignPos_mod_sixteen (p cap : Nat) : alignPos p cap % 16 = 0 := by
  rw [alignPos_eq_ite]
  split
  · rfl
  · exact alignUp16_mod_sixteen p

/-- Rounding the end of a copy of `n` bytes up is moving the start forward by the rounded length: the whole rings
that the reduction drops are multiples of 16, and so is the start. -/
theorem alignPos_advance (hpos : 0 < cap) (hcap : cap % 16 = 0) (hm : m % 16 = 0) (n : Nat) :
    alignPos ((m + n) % cap) cap = (m + alignUp16 n) % cap := by
  have hrings : cap * ((m + n) / cap) % 16 = 0 := by simp [Nat.mul_mod, hcap]
  calc alignPos ((m + n) % cap) cap
    _ = alignUp16 ((m + n) % cap) % cap := alignPos_eq_mod (Nat.mod_lt _ hpos) hcap
    _ = (cap * ((m + n) / cap) + alignUp16 ((m + n) % cap)) % cap := (Nat.mul_add_mod ..).symm
    _ = alignUp16 (m + n) % cap := by rw [← alignUp16_add hrings, Nat.div_add_mod]
    _ = (m + alignUp16 n) % cap := by rw [alignUp16_add hm]

/-- A published position that is in the ring and a multiple of 16 passes `cursorOK`. -/
theorem cursorOK_ofNat (hcap : cap ≤ 2 ^ 31) (hn : n < cap) (h16 : n % 16 = 0) :
    cursorOK (BitVec.ofNat 32 n) cap = true := by
  have hword : (BitVec.ofNat 32 n).toNat = n := by rw [BitVec.toNat_ofNat, Nat.mod_eq_of_lt (by omega)]
  rw [cursorOK_iff, hword]
  exact ⟨hn, h16⟩

/-! ### Free space and available data -/

/-- The two make up the ring (`41_ring_primitives.md` R93). -/
theorem freeSpace_add_availData (hw : w < cap) (hr : r < cap) : freeSpace w r cap + availData r w cap = cap := by
  simp only [freeSpace, availData]
  split <;> omega

/-- The free space is never 0: equal cursors are an empty ring (`41_ring_primitives.md` R93). -/
theorem freeSpace_pos (hw : w < cap) : 0 < freeSpace w r cap := by
  simp only [freeSpace]
  split <;> omega

theorem freeSpace_self (cap : Nat) : freeSpace r r cap = cap := by simp [freeSpace]

theorem freeSpace_mod_sixteen (hcap : cap % 16 = 0) (hw : w % 16 = 0) (hr : r % 16 = 0) :
    freeSpace w r cap % 16 = 0 := by
  simp only [freeSpace]
  split <;> omega

/-- Moving a position forward by less than the capacity wraps at most once. -/
theorem advance_eq_ite (hw : w < cap) (hk : k < cap) :
    (w + k) % cap = if w + k < cap then w + k else w + k - cap := by
  split
  · next h => exact Nat.mod_eq_of_lt h
  · next h => rw [Nat.mod_eq_sub_mod (by omega), Nat.mod_eq_of_lt (by omega)]

/-- Moving the writeIndex forward inside the free space uses up just that much of it. -/
theorem freeSpace_advance (hw : w < cap) (hr : r < cap) (hk : k < freeSpace w r cap) :
    freeSpace ((w + k) % cap) r cap = freeSpace w r cap - k := by
  have hsum := freeSpace_add_availData hw hr
  rw [advance_eq_ite hw (by omega)]
  simp only [freeSpace] at hk ⊢
  split_ifs at hk ⊢ <;> omega

/-- Moving the readIndex forward, at most up to the writeIndex, frees just that much of the data: the free space grows
by what the data loses. -/
theorem availData_advance (hw : w < cap) (hr : r < cap) (hk : k ≤ availData r w cap) :
    availData ((r + k) % cap) w cap = availData r w cap - k := by
  have hsum := freeSpace_add_availData hw hr
  have hfree := freeSpace_pos (r := r) hw
  rw [advance_eq_ite hr (by omega)]
  simp only [availData] at hk ⊢
  split_ifs at hk ⊢ <;> omega

/-! ### The statements -/

/-- Settles O25: the least multiple of 16 at or above the position is `alignUp16`. -/
theorem alignPosRoundsUpAndWraps : Obligations.AlignPosRoundsUpAndWraps := by
  unfold Obligations.AlignPosRoundsUpAndWraps
  intro p cap hp hcap
  refine ⟨⟨alignUp16 p, le_alignUp16 p, alignUp16_mod_sixteen p, ?_, alignPos_eq_ite p cap⟩,
    alignPos_mod_sixteen p cap, alignPos_lt hp hcap⟩
  exact fun m hpm hm => (alignUp16_le_iff hm).2 hpm

/-- Settles O26: the free space is positive and, for aligned cursors, a multiple of 16; the available data is the rest of
the ring. -/
theorem freeAndAvailableMakeUpTheRing : Obligations.FreeAndAvailableMakeUpTheRing := by
  unfold Obligations.FreeAndAvailableMakeUpTheRing
  refine ⟨fun w r cap hw hr => ⟨freeSpace_add_availData hw hr, freeSpace_pos hw⟩, fun w r cap hcap hw hr => ?_⟩
  obtain ⟨hwlt, hw16⟩ := (cursorOK_iff w cap).1 hw
  obtain ⟨hrlt, hr16⟩ := (cursorOK_iff r cap).1 hr
  have hsum := freeSpace_add_availData hwlt hrlt
  have hpos := freeSpace_pos (r := r.toNat) hwlt
  have h16 := freeSpace_mod_sixteen hcap hw16 hr16
  omega

/-- Settles O27: the block's footprint is below the free space, so the writeIndex moves forward by it and stays short of
the readIndex. -/
theorem writeNeverFillsTheRing : Obligations.WriteNeverFillsTheRing := by
  unfold Obligations.WriteNeverFillsTheRing
  intro w r cap p hcap hmax hw hr hroom
  obtain ⟨hwlt, hw16⟩ := (cursorOK_iff w cap).1 hw
  obtain ⟨hrlt, hr16⟩ := (cursorOK_iff r cap).1 hr
  have hpos : 0 < cap := by omega
  have hsum := freeSpace_add_availData hwlt hrlt
  have hfoot : alignUp16 (24 + p) ≤ freeSpace w.toNat r.toNat cap - 16 := by
    have h16 := freeSpace_mod_sixteen hcap hw16 hr16
    exact (alignUp16_le_iff (by omega)).2 (by omega)
  have hlen := le_alignUp16 (24 + p)
  have hend := alignPos_advance hpos hcap hw16 (24 + p)
  have hleft : freeSpace (alignPos ((w.toNat + (24 + p)) % cap) cap) r.toNat cap
      = freeSpace w.toNat r.toNat cap - alignUp16 (24 + p) := by
    rw [hend, freeSpace_advance hwlt hrlt (by omega)]
  refine ⟨hend, ?_, fun heq => ?_, hleft, by omega⟩
  · exact cursorOK_ofNat hmax (alignPos_lt (Nat.mod_lt _ hpos) hcap) (alignPos_mod_sixteen _ cap)
  · rw [heq, freeSpace_self] at hleft
    omega

/-- Settles O28: the available data is a multiple of 16, so it holds the block's footprint as well as the block. -/
theorem readNeverPassesTheWriter : Obligations.ReadNeverPassesTheWriter := by
  unfold Obligations.ReadNeverPassesTheWriter
  intro w r cap l hcap hmax hw hr hdata
  obtain ⟨hwlt, hw16⟩ := (cursorOK_iff w cap).1 hw
  obtain ⟨hrlt, hr16⟩ := (cursorOK_iff r cap).1 hr
  have hpos : 0 < cap := by omega
  have hfoot : alignUp16 (4 + l) ≤ availData r.toNat w.toNat cap := by
    have hsum := freeSpace_add_availData hwlt hrlt
    have h16 := freeSpace_mod_sixteen hcap hw16 hr16
    exact (alignUp16_le_iff (by omega)).2 hdata
  have hend := alignPos_advance hpos hcap hr16 (4 + l)
  refine ⟨hend, ?_, hfoot, ?_⟩
  · exact cursorOK_ofNat hmax (alignPos_lt (Nat.mod_lt _ hpos) hcap) (alignPos_mod_sixteen _ cap)
  · rw [hend, availData_advance hwlt hrlt hfoot]

end Sys2Proof.Machine
end

section
/-! PROOFS. RB_WRITE and RB_READ (`41_ring_primitives.md` R86 to R88): what a ring copy leaves in each byte, and the
contiguous runs it is made of. -/

namespace Sys2Proof.Machine

variable {hdr : Nat} {g : RingView} {m : Mem} {pos : Nat}

/-! ### The addresses of a copy -/

/-- A copy's byte `i + 1` is byte `i` of the copy from the next position. -/
theorem RingView.byteAddr_succ (g : RingView) (hdr pos i : Nat) :
    g.byteAddr hdr (pos + 1) i = g.byteAddr hdr pos (i + 1) := by
  simp only [RingView.byteAddr, Nat.add_right_comm pos 1 i, Nat.add_assoc]

/-- A copy's byte `n + i` is byte `i` of the copy that starts `n` positions on. -/
theorem RingView.byteAddr_add (g : RingView) (hdr pos n i : Nat) :
    g.byteAddr hdr pos (n + i) = g.byteAddr hdr (pos + n) i := by
  simp only [RingView.byteAddr, Nat.add_assoc]

/-- The capacity as a position is position 0. -/
theorem RingView.byteAddr_cap (g : RingView) (hdr i : Nat) : g.byteAddr hdr g.cap i = g.byteAddr hdr 0 i := by
  simp [RingView.byteAddr]

/-- Before the end of the ring no byte's position wraps. -/
theorem RingView.byteAddr_of_lt {i : Nat} (hi : pos + i < g.cap) : g.byteAddr hdr pos i = g.dataAddr hdr (pos + i) := by
  rw [RingView.byteAddr, Nat.mod_eq_of_lt hi]

theorem RingView.dataAddr_succ (g : RingView) (hdr pos : Nat) :
    g.dataAddr hdr (pos + 1) = g.dataAddr hdr pos + 1 := by
  simp only [RingView.dataAddr, addr32, ← Nat.add_assoc]
  exact BitVec.ofNat_add ..

/-! ### What a copy leaves in each byte -/

/-- RB_WRITE changes no byte outside its copy (`41_ring_primitives.md` R86). -/
theorem read8_rbWrite_of_ne (hm : Mem.wf m = true) {src : List Byte} {a : Word}
    (ha : ∀ i < src.length, a ≠ g.byteAddr hdr pos i) : (rbWrite hdr g m pos src).read8 a = m.read8 a := by
  induction src generalizing m pos with
  | nil => rfl
  | cons b bs ih =>
    have htail : ∀ i < bs.length, a ≠ g.byteAddr hdr (pos + 1) i := fun i hi => by
      rw [g.byteAddr_succ]
      exact ha (i + 1) (Nat.succ_lt_succ hi)
    rw [rbWrite, ih (Mem.wf_write8 hm ..) htail, Mem.read8_write8 hm, if_neg (ha 0 (Nat.succ_pos _))]

/-- RB_WRITE leaves the source's byte `k` at the copy's byte `k`: the later bytes go to other addresses, since the copy is
no longer than the ring. -/
theorem read8_rbWrite_at (hm : Mem.wf m = true) {src : List Byte} (hlen : src.length ≤ g.cap) (hcap : g.cap ≤ 2 ^ 32)
    {k : Nat} (hk : k < src.length) : (rbWrite hdr g m pos src).read8 (g.byteAddr hdr pos k) = src[k] := by
  induction src generalizing m pos k with
  | nil => simp at hk
  | cons b bs ih =>
    rw [List.length_cons] at hlen hk
    have hw := Mem.wf_write8 hm (g.byteAddr hdr pos 0) b
    cases k with
    | zero =>
      have hlater : ∀ i < bs.length, g.byteAddr hdr pos 0 ≠ g.byteAddr hdr (pos + 1) i := fun i hi heq => by
        rw [g.byteAddr_succ] at heq
        exact absurd (g.byteAddr_inj hdr pos 0 (i + 1) hcap (by omega) (by omega) heq) (by omega)
      rw [rbWrite, read8_rbWrite_of_ne hw hlater, Mem.read8_write8 hm, if_pos rfl]
      rfl
    | succ k =>
      rw [rbWrite, ← g.byteAddr_succ]
      exact ih hw (by omega) (by omega)

/-! ### Runs -/

/-- A copy of two strings is the copy of the first, then of the second from where the first ended. -/
theorem rbWrite_append (hdr : Nat) (g : RingView) (m : Mem) (pos : Nat) (xs ys : List Byte) :
    rbWrite hdr g m pos (xs ++ ys) = rbWrite hdr g (rbWrite hdr g m pos xs) (pos + xs.length) ys := by
  induction xs generalizing m pos with
  | nil => rfl
  | cons x xs ih =>
    rw [List.cons_append, rbWrite, rbWrite, ih, List.length_cons, Nat.add_assoc, Nat.add_comm 1]

theorem rbRead_add (hdr : Nat) (g : RingView) (m : Mem) (pos i j : Nat) :
    rbRead hdr g m pos (i + j) = rbRead hdr g m pos i ++ rbRead hdr g m (pos + i) j := by
  simp [rbRead, List.range_add, g.byteAddr_add, Function.comp_def]

theorem rbRead_succ (hdr : Nat) (g : RingView) (m : Mem) (pos n : Nat) :
    rbRead hdr g m pos (n + 1) = m.read8 (g.byteAddr hdr pos 0) :: rbRead hdr g m (pos + 1) n := by
  rw [Nat.add_comm, rbRead_add]
  rfl

/-- A copy's write depends on its position only through its addresses. -/
theorem rbWrite_congr {pos' : Nat} (h : ∀ i, g.byteAddr hdr pos i = g.byteAddr hdr pos' i) (m : Mem) (src : List Byte) :
    rbWrite hdr g m pos src = rbWrite hdr g m pos' src := by
  induction src generalizing m pos pos' with
  | nil => rfl
  | cons b bs ih =>
    rw [rbWrite, rbWrite, h 0]
    exact ih (fun i => by rw [g.byteAddr_succ, g.byteAddr_succ, h]) _

theorem rbWrite_cap (hdr : Nat) (g : RingView) (m : Mem) (src : List Byte) :
    rbWrite hdr g m g.cap src = rbWrite hdr g m 0 src := rbWrite_congr (g.byteAddr_cap hdr) m src

theorem rbRead_cap (hdr : Nat) (g : RingView) (m : Mem) (len : Nat) :
    rbRead hdr g m g.cap len = rbRead hdr g m 0 len := by simp only [rbRead, g.byteAddr_cap]

/-- A write that ends at or before the capacity is one contiguous run. -/
theorem rbWrite_eq_writeBytes {src : List Byte} (hfit : pos + src.length ≤ g.cap) (m : Mem) :
    rbWrite hdr g m pos src = m.writeBytes (g.dataAddr hdr pos) src := by
  induction src generalizing m pos with
  | nil => rfl
  | cons b bs ih =>
    rw [List.length_cons] at hfit
    rw [rbWrite, Mem.writeBytes, ih (by omega), g.dataAddr_succ, RingView.byteAddr_of_lt (by omega), Nat.add_zero]

/-- A read that ends at or before the capacity is one contiguous run. -/
theorem rbRead_eq_readBytes {len : Nat} (hfit : pos + len ≤ g.cap) :
    rbRead hdr g m pos len = m.readBytes (g.dataAddr hdr pos) len := by
  induction len generalizing pos with
  | zero => rfl
  | succ n ih =>
    rw [rbRead_succ, Mem.readBytes, ih (by omega), g.dataAddr_succ, RingView.byteAddr_of_lt (by omega), Nat.add_zero]

/-! ### The statements -/

/-- Settles O29: a crossing copy is split where its first run reaches the capacity, and the second run starts there, that
is, at position 0. -/
theorem crossingCopyIsTwoRuns : Obligations.CrossingCopyIsTwoRuns := by
  unfold Obligations.CrossingCopyIsTwoRuns
  intro hdr g m pos hpos
  refine ⟨fun src hlen => ?_, fun first second hfirst hsecond => ?_⟩
  · have hfit : pos + src.length ≤ g.cap := by omega
    exact ⟨rbWrite_eq_writeBytes hfit m, rbRead_eq_readBytes hfit⟩
  · have hend : pos + first.length = g.cap := by omega
    have hfit : 0 + second.length ≤ g.cap := by omega
    constructor
    · rw [rbWrite_append, hend, rbWrite_cap, rbWrite_eq_writeBytes hend.le, rbWrite_eq_writeBytes hfit]
    · rw [rbRead_add, hend, rbRead_cap, rbRead_eq_readBytes hend.le, rbRead_eq_readBytes hfit]

/-- Settles O30: byte by byte, what the copy leaves at its own addresses and at every other. -/
theorem ringCopyRoundTrips : Obligations.RingCopyRoundTrips := by
  unfold Obligations.RingCopyRoundTrips
  intro hdr g m pos src hm hlen hcap
  refine ⟨List.ext_getElem (by simp [rbRead]) fun k _ hk => ?_, fun a ha => read8_rbWrite_of_ne hm ha⟩
  simpa [rbRead] using read8_rbWrite_at hm hlen hcap hk

end Sys2Proof.Machine
end

section
/-! PROOFS. The judgement of a negotiation's entries (`42_negotiation.md` R102, R110): which entries pass one by one,
what has been seen of the tags after them, and that three entries pass exactly when they are one of each tag. -/

namespace Sys2Proof.Machine

variable {hdr : Nat} {sn sn' : Seen} {e : Entry} {es : List Entry} {l r x : Word}

/-! ### Tags -/

/-- The tags of `30_encoding.md` R69. -/
def fifoTags : List Word := [tagLocal, tagRemote, tagEnd]

theorem mem_fifoTags {c : Word} : c ∈ fifoTags ↔ c = tagLocal ∨ c = tagRemote ∨ c = tagEnd := by
  simp [fifoTags]

theorem fifoTags_nodup : fifoTags.Nodup := by decide

/-- The entries that the decoder rejects are those with another first word (`30_encoding.md` R69). -/
theorem decodeEntry_unknownTag_iff : decodeEntry e = .error .unknownTag ↔ e.cmd ∉ fifoTags := by
  constructor
  · obtain ⟨c, d⟩ := e
    intro h hk
    rcases mem_fifoTags.1 hk with rfl | rfl | rfl <;> exact absurd h nofun
  · rw [mem_fifoTags, not_or, not_or]
    rintro ⟨hlocal, hremote, hend⟩
    simp only [decodeEntry, if_neg hlocal, if_neg hremote, if_neg hend]

/-! ### One entry -/

/-- The tag `c` has been seen. -/
def Seen.has (sn : Seen) (c : Word) : Prop :=
  (c = tagLocal ∧ sn.loc.isSome) ∨ (c = tagRemote ∧ sn.rem.isSome) ∨ (c = tagEnd ∧ sn.fin)

theorem Seen.has_local : sn.has tagLocal ↔ sn.loc.isSome := by
  simp [Seen.has, tagLocal, tagRemote, tagEnd]

theorem Seen.has_remote : sn.has tagRemote ↔ sn.rem.isSome := by
  simp [Seen.has, tagLocal, tagRemote, tagEnd]

theorem Seen.has_end : sn.has tagEnd ↔ sn.fin := by
  simp [Seen.has, tagLocal, tagRemote, tagEnd]

theorem Seen.not_has_start (c : Word) : ¬ Seen.start.has c := by
  simp [Seen.has, Seen.start]

theorem Seen.judge_unknown (h : e.cmd ∉ fifoTags) (sn : Seen) : sn.judge e = .error .negUnknownTag := by
  simp only [Seen.judge, decodeEntry_unknownTag_iff.2 h]

theorem Seen.judge_repeated (h : sn.has e.cmd) : sn.judge e = .error .negDupTag := by
  obtain ⟨c, d⟩ := e
  rcases h with ⟨rfl, h⟩ | ⟨rfl, h⟩ | ⟨rfl, h⟩
  · exact if_pos h
  · exact if_pos h
  · exact if_pos h

/-- An entry whose tag is new passes, and its tag has then been seen besides the others. -/
theorem Seen.judge_new (hk : e.cmd ∈ fifoTags) (hn : ¬ sn.has e.cmd) :
    ∃ sn', sn.judge e = .ok sn' ∧ ∀ c, sn'.has c ↔ sn.has c ∨ c = e.cmd := by
  obtain ⟨c, d⟩ := e
  rcases mem_fifoTags.1 hk with rfl | rfl | rfl
  · refine ⟨{ sn with loc := some d }, if_neg (Seen.has_local.not.1 hn), fun c => ?_⟩
    simp only [Seen.has]
    grind
  · refine ⟨{ sn with rem := some d }, if_neg (Seen.has_remote.not.1 hn), fun c => ?_⟩
    simp only [Seen.has]
    grind
  · refine ⟨{ sn with fin := true }, if_neg (Seen.has_end.not.1 hn), fun c => ?_⟩
    simp only [Seen.has]
    grind

/-! ### Entries in order -/

theorem Seen.judgeAll_cons_ok (h : sn.judge e = .ok sn') (es : List Entry) :
    sn.judgeAll (e :: es) = sn'.judgeAll es := by
  simp only [Seen.judgeAll, h]

theorem Seen.judgeAll_cons_error {d : Detail} (h : sn.judge e = .error d) (es : List Entry) :
    sn.judgeAll (e :: es) = .error d := by
  simp only [Seen.judgeAll, h]

/-- Entries that follow entries that pass are judged with what was seen of those. -/
theorem Seen.judgeAll_append (h : sn.judgeAll es = .ok sn') (fs : List Entry) :
    sn.judgeAll (es ++ fs) = sn'.judgeAll fs := by
  induction es generalizing sn with
  | nil => cases h; rfl
  | cons e es ih =>
    cases hj : sn.judge e with
    | error d => exact absurd ((Seen.judgeAll_cons_error hj es).symm.trans h) nofun
    | ok u =>
      rw [List.cons_append, Seen.judgeAll_cons_ok hj]
      exact ih ((Seen.judgeAll_cons_ok hj es).symm.trans h)

/-- Entries with different known tags, none of them seen before, pass, and their tags have then been seen. -/
theorem Seen.judgeAll_new (hk : ∀ e ∈ es, e.cmd ∈ fifoTags) (hd : (es.map Entry.cmd).Nodup)
    (hn : ∀ e ∈ es, ¬ sn.has e.cmd) :
    ∃ sn', sn.judgeAll es = .ok sn' ∧ ∀ c, sn'.has c ↔ sn.has c ∨ c ∈ es.map Entry.cmd := by
  induction es generalizing sn with
  | nil => exact ⟨sn, rfl, by simp⟩
  | cons e es ih =>
    simp only [List.forall_mem_cons] at hk hn
    rw [List.map_cons, List.nodup_cons] at hd
    obtain ⟨u, hu, hhas⟩ := Seen.judge_new hk.1 hn.1
    have hnew : ∀ f ∈ es, ¬ u.has f.cmd := fun f hf hc => by
      rcases (hhas _).1 hc with hc | hc
      · exact hn.2 f hf hc
      · exact hd.1 (hc ▸ List.mem_map_of_mem hf)
    obtain ⟨sn', hall, hhas'⟩ := ih hk.2 hd.2 hnew
    refine ⟨sn', (Seen.judgeAll_cons_ok hu es).trans hall, fun c => ?_⟩
    rw [hhas', hhas, List.map_cons, List.mem_cons, or_assoc]

/-- Only entries with different known tags, none of them seen before, pass. -/
theorem Seen.new_of_judgeAll_ok (h : sn.judgeAll es = .ok sn') :
    (∀ e ∈ es, e.cmd ∈ fifoTags) ∧ (es.map Entry.cmd).Nodup ∧ ∀ e ∈ es, ¬ sn.has e.cmd := by
  induction es generalizing sn with
  | nil => simp
  | cons e es ih =>
    have hk : e.cmd ∈ fifoTags := by
      by_contra hk
      exact absurd ((Seen.judgeAll_cons_error (Seen.judge_unknown hk sn) es).symm.trans h) nofun
    have hn : ¬ sn.has e.cmd := fun hn =>
      absurd ((Seen.judgeAll_cons_error (Seen.judge_repeated hn) es).symm.trans h) nofun
    obtain ⟨u, hu, hhas⟩ := Seen.judge_new hk hn
    obtain ⟨hks, hds, hns⟩ := ih ((Seen.judgeAll_cons_ok hu es).symm.trans h)
    refine ⟨List.forall_mem_cons.2 ⟨hk, hks⟩, List.nodup_cons.2 ⟨fun hmem => ?_, hds⟩,
      List.forall_mem_cons.2 ⟨hn, fun f hf hc => hns f hf ((hhas _).2 (.inl hc))⟩⟩
    obtain ⟨f, hf, hfe⟩ := List.mem_map.1 hmem
    exact hns f hf ((hhas _).2 (.inr hfe))

/-! ### One entry of each tag -/

/-- Three entries that pass are one of each tag. -/
theorem exists_perm_of_judgeAll_ok (h : Seen.start.judgeAll es = .ok sn) (hlen : es.length = 3) :
    ∃ l r x, es.Perm [⟨tagLocal, l⟩, ⟨tagRemote, r⟩, ⟨tagEnd, x⟩] := by
  obtain ⟨hk, hd, _⟩ := Seen.new_of_judgeAll_ok h
  have hsub : es.map Entry.cmd ⊆ fifoTags := fun _ hc => List.forall_mem_map.2 hk _ hc
  have hperm : (es.map Entry.cmd).Perm fifoTags := (hd.subperm hsub).perm_of_length_le (by simp [hlen, fifoTags])
  have hentry : ∀ c ∈ fifoTags, ∃ d, (⟨c, d⟩ : Entry) ∈ es := fun c hc => by
    obtain ⟨⟨_, d⟩, hmem, rfl⟩ := List.mem_map.1 (hperm.mem_iff.2 hc)
    exact ⟨d, hmem⟩
  obtain ⟨l, hl⟩ := hentry tagLocal (by decide)
  obtain ⟨r, hr⟩ := hentry tagRemote (by decide)
  obtain ⟨x, hx⟩ := hentry tagEnd (by decide)
  have hnodup : [(⟨tagLocal, l⟩ : Entry), ⟨tagRemote, r⟩, ⟨tagEnd, x⟩].Nodup := .of_map Entry.cmd fifoTags_nodup
  refine ⟨l, r, x, ((hnodup.subperm ?_).perm_of_length_le (by simp [hlen])).symm⟩
  simp [hl, hr, hx]

/-- One entry of each tag pass in any order, and show the two descriptors. -/
theorem judgeAll_of_perm (h : es.Perm [⟨tagLocal, l⟩, ⟨tagRemote, r⟩, ⟨tagEnd, x⟩]) :
    ∃ sn, Seen.start.judgeAll es = .ok sn ∧ sn.loc = some l ∧ sn.rem = some r := by
  have hcmds : (es.map Entry.cmd).Perm fifoTags := h.map Entry.cmd
  have hk : ∀ e ∈ es, e.cmd ∈ fifoTags := fun e he => hcmds.subset (List.mem_map_of_mem he)
  obtain ⟨sn, hsn, hhas⟩ :=
    Seen.judgeAll_new hk (hcmds.nodup_iff.2 fifoTags_nodup) fun e _ => Seen.not_has_start e.cmd
  obtain ⟨hloc, hrem⟩ := Seen.judgeAll_ok hsn
  have hseen : ∀ c ∈ fifoTags, sn.has c := fun c hc => (hhas c).2 (.inr (hcmds.mem_iff.2 hc))
  obtain ⟨l', hl'⟩ := Option.isSome_iff_exists.1 (Seen.has_local.1 (hseen _ (by decide)))
  obtain ⟨r', hr'⟩ := Option.isSome_iff_exists.1 (Seen.has_remote.1 (hseen _ (by decide)))
  have hl : l' = l := by
    have hmem := h.subset ((hloc l' hl').resolve_left nofun)
    simpa [tagLocal, tagRemote, tagEnd] using hmem
  have hr : r' = r := by
    have hmem := h.subset ((hrem r' hr').resolve_left nofun)
    simpa [tagLocal, tagRemote, tagEnd] using hmem
  exact ⟨sn, hsn, hl ▸ hl', hr ▸ hr'⟩

/-! ### The judgement -/

theorem negJudge_of_judgeAll_error {d : Detail} (h : Seen.start.judgeAll es = .error d) :
    negJudge hdr es = .error d := by
  simp only [negJudge, h]

/-- Entries are accepted only after each of them passed. -/
theorem judgeAll_of_negJudge_ok {g : Desc × Desc} (h : negJudge hdr es = .ok g) :
    ∃ sn, Seen.start.judgeAll es = .ok sn := by
  cases hj : Seen.start.judgeAll es with
  | error d => exact absurd ((negJudge_of_judgeAll_error hj).symm.trans h) nofun
  | ok sn => exact ⟨sn, rfl⟩

/-- Of one entry of each tag, the capacities decide (`42_negotiation.md` R102). -/
theorem negJudge_of_perm (h : es.Perm [⟨tagLocal, l⟩, ⟨tagRemote, r⟩, ⟨tagEnd, x⟩]) :
    negJudge hdr es = judgeCaps (descParse hdr l) (descParse hdr r) := by
  obtain ⟨sn, hsn, hl, hr⟩ := judgeAll_of_perm h
  simp only [negJudge, hsn, hl, hr]

theorem judgeCaps_badLocal {gL : Desc} (hl : ¬ 0 < gL.cap) (gR : Desc) : judgeCaps gL gR = .error .negBadLocalCap := by
  simp [judgeCaps, Desc.valid, hl]

theorem judgeCaps_badRemote {gL gR : Desc} (hl : 0 < gL.cap) (hr : ¬ 0 < gR.cap) :
    judgeCaps gL gR = .error .negBadRemoteCap := by
  simp [judgeCaps, Desc.valid, hl, hr]

theorem judgeCaps_good {gL gR : Desc} (hl : 0 < gL.cap) (hr : 0 < gR.cap) : judgeCaps gL gR = .ok (gL, gR) := by
  simp [judgeCaps, Desc.valid, hl, hr]

/-- Two descriptors are accepted as they are when both capacities are positive, and only then. -/
theorem judgeCaps_eq_ok_iff {gL gR : Desc} {g : Desc × Desc} :
    judgeCaps gL gR = .ok g ↔ g = (gL, gR) ∧ 0 < gL.cap ∧ 0 < gR.cap := by
  by_cases hl : 0 < gL.cap
  · by_cases hr : 0 < gR.cap
    · simp [judgeCaps_good hl hr, hl, hr, eq_comm]
    · simp [judgeCaps_badRemote hl hr, hr]
  · simp [judgeCaps_badLocal hl, hl]

/-! ### The statements -/

/-- Settles O19: three entries that pass are one of each tag, and the capacities decide on those. -/
theorem negotiationCompleteness : Obligations.NegotiationCompleteness := by
  unfold Obligations.NegotiationCompleteness
  intro hdr e₀ e₁ e₂ gL gR
  constructor
  · intro h
    obtain ⟨sn, hsn⟩ := judgeAll_of_negJudge_ok h
    obtain ⟨l, r, x, hperm⟩ := exists_perm_of_judgeAll_ok hsn rfl
    obtain ⟨hg, hl, hr⟩ := judgeCaps_eq_ok_iff.1 ((negJudge_of_perm hperm).symm.trans h)
    cases hg
    exact ⟨l, r, x, hperm, rfl, rfl, hl, hr⟩
  · rintro ⟨l, r, x, hperm, rfl, rfl, hl, hr⟩
    exact (negJudge_of_perm hperm).trans (judgeCaps_good hl hr)

/-- Settles O20: the entries before the offending one pass, and of one entry of each tag the capacities decide, the
local one first. -/
theorem negotiationFailureOrder : Obligations.NegotiationFailureOrder := by
  unfold Obligations.NegotiationFailureOrder
  refine ⟨fun hdr before after e hd hk => ?_, fun hdr es l r x hperm => ?_⟩
  · obtain ⟨sn, hsn, hhas⟩ := Seen.judgeAll_new hk hd fun b _ => Seen.not_has_start b.cmd
    have hfails : ∀ d, sn.judge e = .error d → negJudge hdr (before ++ e :: after) = .error d := fun d h =>
      negJudge_of_judgeAll_error ((Seen.judgeAll_append hsn _).trans (Seen.judgeAll_cons_error h after))
    exact ⟨fun he => hfails _ (Seen.judge_unknown he sn),
      fun he => hfails _ (Seen.judge_repeated ((hhas _).2 (.inr he)))⟩
  · rw [negJudge_of_perm hperm]
    simp only [← Nat.not_lt, ← descParse_cap_pos_iff]
    exact ⟨fun hl => judgeCaps_badLocal hl _, judgeCaps_badRemote⟩

end Sys2Proof.Machine
end

section
/-! PROOFS. What a step of the negotiation does: the commands NEGPEND and NEGOTIATE, each case of NEG_POP
(`42_negotiation.md` R101), the taking of an entry, and the timeout event (R106). -/

namespace Sys2Proof.Machine

variable {s : State} {c : CtlChoice} {e : Entry} {es : List Entry} {i : Instr}

/-! ### The turn -/

/-- A step is the turn at the head of the schedule. -/
theorem step_of_sched {turn : Turn} {ts : List Turn} (h : s.env.sched = turn :: ts) :
    step s = (s.setSched ts).takeTurn turn := by
  simp only [step, State.nextTurn, h]

/-- In NEG_WAIT the controller's step is NEG_POP. -/
theorem State.controllerTurn_negWait (c : CtlChoice) (h : s.fsm = .negWait) : s.controllerTurn c = s.negPop c := by
  simp only [State.controllerTurn, h]

/-! ### NEG_POP -/

theorem State.negPop_abort (c : CtlChoice) (h : s.neg.abortReq = true) : s.negPop c = .next s.negAbort :=
  if_pos h

theorem State.negPop_timeout (c : CtlChoice) (ha : s.neg.abortReq = false) (ht : s.neg.timeoutEv = true) :
    s.negPop c = .next (s.negFail .negTimeout) := by
  simp [State.negPop, ha, ht]

theorem State.negPop_empty (c : CtlChoice) (ha : s.neg.abortReq = false) (ht : s.neg.timeoutEv = false)
    (hin : s.mbx.inbound = []) : s.negPop c = .next s := by
  simp [State.negPop, ha, ht, hin]

theorem State.negPop_fails (ha : s.neg.abortReq = false) (ht : s.neg.timeoutEv = false) (hin : s.mbx.inbound ≠ [])
    (hc : (c.popErr && s.cfg.popMayFail) = true) : s.negPop c = .next s.popFailed := by
  obtain ⟨e, es, hin⟩ := List.exists_cons_of_ne_nil hin
  simp only [State.negPop, ha, ht, hin, hc, if_true, Bool.false_eq_true, if_false]

theorem State.negPop_pops (ha : s.neg.abortReq = false) (ht : s.neg.timeoutEv = false) (hin : s.mbx.inbound = e :: es)
    (hc : (c.popErr && s.cfg.popMayFail) = false) : s.negPop c = (s.popped e es).receive e := by
  simp only [State.negPop, ha, ht, hin, hc, Bool.false_eq_true, if_false]

/-- What a pop does: the entry leaves the FIFO, and the pop is recorded with the entry's number, as no cursor access. -/
theorem State.popped_eq (e : Entry) (es : List Entry) (s : State) : s.popped e es =
    { s with
      mbx := { s.mbx with inbound := es }
      ghost := { s.ghost with trace :=
        ⟨.controller, s.ghost.cmdNo, .pop (s.ghost.entered.length - s.mbx.inbound.length), 0, entryBytes e, false⟩ ::
          s.ghost.trace } } := rfl

/-! ### Taking an entry -/

/-- A popped entry with a known tag runs its instruction. -/
theorem State.receive_ok (h : decodeEntry e = .ok i) (s : State) : s.receive e = exec i s := by
  simp only [State.receive, h]

/-- The instruction of an entry takes the entry. -/
theorem exec_of_decodeEntry (h : decodeEntry e = .ok i) (s : State) : exec i s = .next (s.takeEntry e) := by
  rw [← State.receive_ok h, State.receive_eq]

/-- A third entry that is judged an error fails the negotiation (`42_negotiation.md` R102). -/
theorem State.takeEntry_bad {d : Detail} (h : s.fsm = .negWait) (hk : s.neg.ents.length = 2)
    (hj : negJudge s.cfg.rbHdrSize (s.neg.ents ++ [e]) = .error d) : s.takeEntry e = s.negFail d := by
  rw [State.takeEntry_third e h hk, State.negEval_error hj, State.negFail_eq, State.negFail_eq]

/-- A third entry that completes a good handshake ends the negotiation with success (`42_negotiation.md` R102). -/
theorem State.takeEntry_good {gL gR : Desc} (h : s.fsm = .negWait) (hk : s.neg.ents.length = 2)
    (hj : negJudge s.cfg.rbHdrSize (s.neg.ents ++ [e]) = .ok (gL, gR)) : s.takeEntry e = s.negSuccess gL gR := by
  rw [State.takeEntry_third e h hk, State.negEval_ok hj, State.negSuccess_eq, State.negSuccess_eq]

/-- Every error of the judgement is a NegotiationFailed (`30_encoding.md` R75). -/
theorem negJudge_error {hdr : Nat} {d : Detail} (h : negJudge hdr es = .error d) : d.kind = .negotiationFailed := by
  rcases negJudge_cases hdr es with ⟨_, _, hok, _⟩ | ⟨d', hd', hkind⟩
  · exact absurd (hok.symm.trans h) nofun
  · cases hd'.symm.trans h
    exact hkind

/-- The judgement of entries of which one has an unknown tag is an error. -/
theorem negJudge_of_unknownTag (hdr : Nat) (he : e ∈ es) (hd : decodeEntry e = .error .unknownTag) :
    ∃ d, negJudge hdr es = .error d := by
  cases hj : negJudge hdr es with
  | error d => exact ⟨d, rfl⟩
  | ok g =>
    obtain ⟨sn, hsn⟩ := judgeAll_of_negJudge_ok hj
    exact absurd ((Seen.new_of_judgeAll_ok hsn).1 e he) (decodeEntry_unknownTag_iff.1 hd)

/-- The capacity register of a parsed descriptor (`42_negotiation.md` R103). -/
theorem descParse_cap_toNat (hdr : Nat) (word : Word) :
    (descParse hdr word).cap.toNat = 2 ^ (word.toNat % 32) - hdr := by
  rw [descParse_cap, Int.toNat_sub]

/-! ### NEGPEND and the timeout event -/

/-- NEGPEND's body as one record. -/
theorem State.negPendResult_eq (s : State) : s.negPendResult =
    { s with
      status := { s.status with err := .ok, detail := .none }
      results := { s.results with rlen := if 1 ≤ s.mbx.inbound.length then 1 else 0 }
      fsm := .idle } := by
  have hpending : s.fifoPending = decide (1 ≤ s.mbx.inbound.length) := rfl
  by_cases h : 1 ≤ s.mbx.inbound.length <;> simp only [State.negPendResult, hpending, h] <;> rfl

/-- The controller is held while it waits with nothing to do (`42_negotiation.md` R105). -/
theorem State.held_iff : s.held = true ↔
    s.fsm = .negWait ∧ s.mbx.inbound = [] ∧ s.neg.abortReq = false ∧ s.neg.timeoutEv = false := by
  simp [State.held, and_assoc]

/-- The timeout turn as one record: the flag is set when it is enabled and the controller is held, and a flag already
set stays (`42_negotiation.md` R106). -/
theorem State.timeoutEvent_eq (s : State) : s.timeoutEvent =
    { s with neg := { s.neg with
        timeoutEv := s.neg.timeoutEv ||
          decide (s.cfg.negTimeout = true ∧ s.fsm = .negWait ∧ s.mbx.inbound = [] ∧ s.neg.abortReq = false) } } := by
  simp only [State.timeoutEvent, Bool.and_eq_true, State.held_iff]
  split
  · rename_i h
    obtain ⟨hon, hf, hin, ha, -⟩ := h
    rw [decide_eq_true ⟨hon, hf, hin, ha⟩, Bool.or_true]
  · rename_i h
    have hflag : (s.neg.timeoutEv ||
        decide (s.cfg.negTimeout = true ∧ s.fsm = .negWait ∧ s.mbx.inbound = [] ∧ s.neg.abortReq = false)) =
          s.neg.timeoutEv := by
      cases ht : s.neg.timeoutEv with
      | true => rfl
      | false =>
        exact decide_eq_false fun ⟨hon, hf, hin, ha⟩ => h ⟨hon, hf, hin, ha, ht⟩
    rw [hflag]

/-! ### The statements -/

/-- Settles O17: the judgement of one entry of each tag with good capacities is a success. -/
theorem thirdGoodEntryStoresTheRings : Obligations.ThirdGoodEntryStoresTheRings := by
  unfold Obligations.ThirdGoodEntryStoresTheRings
  intro s e i l r x hf hlen hdec hperm hl hr
  have hjudge := (negJudge_of_perm hperm).trans
    (judgeCaps_good (descParse_cap_pos_iff.2 hl) (descParse_cap_pos_iff.2 hr))
  rw [exec_of_decodeEntry hdec, State.takeEntry_good hf hlen hjudge, State.negSuccess_eq, ringsOf,
    descParse_cap_toNat, descParse_cap_toNat]
  rfl

/-- Settles O7: the controller's turn is NEG_POP, which pops the entry and runs its instruction. -/
theorem stepRunsThePoppedEntry : Obligations.StepRunsThePoppedEntry := by
  unfold Obligations.StepRunsThePoppedEntry
  intro s ts ch e es i hsched hf ha ht hin hc hdec
  have hturn : (s.setSched ts).controllerTurn ch = ((s.setSched ts).popped e es).receive e :=
    (State.controllerTurn_negWait (s := s.setSched ts) ch hf).trans (State.negPop_pops ha ht hin hc)
  rw [step_of_sched hsched, State.takeTurn, hturn, State.receive_ok hdec, State.popped_eq]
  rfl

/-- Settles O11: an idle controller on an open socket runs NEGPEND's body. -/
theorem negpendReportsThePendingRequest : Obligations.NegpendReportsThePendingRequest := by
  unfold Obligations.NegpendReportsThePendingRequest
  intro s hf ho
  rw [exec, execNegPend, State.atIdle_idle _ hf, State.withOpen_open _ _ ho, State.negPendResult_eq, ← hf]
  rfl

/-- Settles O12: an idle controller on an open socket starts the wait. -/
theorem negotiateStartsWaiting : Obligations.NegotiateStartsWaiting := by
  unfold Obligations.NegotiateStartsWaiting
  intro s hf ho
  rw [exec, execNegotiate, State.atIdle_idle _ hf, State.withOpen_open _ _ ho]
  rfl

/-- Settles O15: NEG_ABORT by the opcode of the aborting command. -/
theorem abortEndsTheNegotiation : Obligations.AbortEndsTheNegotiation := by
  unfold Obligations.AbortEndsTheNegotiation
  intro s ch hf ha
  rw [State.controllerTurn_negWait ch hf, State.negPop_abort ch ha, State.negAbort_eq]
  refine ⟨fun hcmd => ?_, fun both hcmd => ?_⟩
  · have hopc : opcField s.neg.abortCmd = 0x2 := by rw [hcmd]; rfl
    rw [if_pos hopc, hopc]
    rfl
  · have hopc : opcField s.neg.abortCmd = 0x5 := by rw [hcmd]; cases both <;> rfl
    have hboth : s.neg.abortCmd.getLsbD 4 = both := by rw [hcmd]; cases both <;> rfl
    rw [hopc, if_neg (by decide), hboth]
    rfl

/-- Settles O16: each tag's instruction takes its entry, one of the first two. -/
theorem earlyEntriesAreRecorded : Obligations.EarlyEntriesAreRecorded := by
  unfold Obligations.EarlyEntriesAreRecorded
  intro s d hf hfew
  have htaken : ∀ e i, decodeEntry e = .ok i →
      exec i s = .next { s with neg := { s.neg with ents := s.neg.ents ++ [e] } } := fun e i h => by
    rw [exec_of_decodeEntry h, State.takeEntry_few e hf hfew]
  exact ⟨htaken _ _ rfl, htaken _ _ rfl, htaken _ _ rfl⟩

/-- Settles O18: every error of the judgement is a NegotiationFailed. -/
theorem thirdBadEntryFailsTheNegotiation : Obligations.ThirdBadEntryFailsTheNegotiation := by
  unfold Obligations.ThirdBadEntryFailsTheNegotiation
  intro s e i d hf hlen hdec hjudge
  rw [exec_of_decodeEntry hdec, State.takeEntry_bad hf hlen hjudge, State.negFail_eq, negJudge_error hjudge]

/-- Settles O21: the pop succeeds, and an entry with an unknown tag is taken like the others. -/
theorem unknownTagIsConsumed : Obligations.UnknownTagIsConsumed := by
  unfold Obligations.UnknownTagIsConsumed
  intro s ch e es hf ha ht hin hc hdec
  have hturn : s.controllerTurn ch = .next ((s.popped e es).takeEntry e) := by
    rw [State.controllerTurn_negWait ch hf, State.negPop_pops ha ht hin hc, State.receive_eq]
  refine ⟨fun hfew => ?_, fun hlen => ?_⟩
  · rw [hturn, State.takeEntry_few (s := s.popped e es) e hf hfew, State.popped_eq]
  · obtain ⟨d, hjudge⟩ := negJudge_of_unknownTag s.cfg.rbHdrSize
      (List.mem_append_right s.neg.ents (List.mem_singleton_self e)) hdec
    refine ⟨d, hjudge, ?_⟩
    rw [hturn, State.takeEntry_bad (s := s.popped e es) hf hlen hjudge, State.negFail_eq, negJudge_error hjudge,
      State.popped_eq]

/-- Settles O22: NEG_POP with nothing to pop, and with a pending timeout. -/
theorem waitingControllerHolds : Obligations.WaitingControllerHolds := by
  unfold Obligations.WaitingControllerHolds
  intro s ch hf ha
  rw [State.controllerTurn_negWait ch hf]
  refine ⟨fun ht hin => State.negPop_empty ch ha ht hin, fun ht => ?_⟩
  rw [State.negPop_timeout ch ha ht, State.negFail_eq]
  rfl

/-- Settles O23: the FIFO left by a failed pop is what a drop of the model's free number leaves. -/
theorem failedPopEndsTheNegotiation : Obligations.FailedPopEndsTheNegotiation := by
  unfold Obligations.FailedPopEndsTheNegotiation
  intro s ch hf ha ht hin herr hmay
  refine ⟨s.mbx.inbound.drop (Config.freeDrop s.ghost.draws), List.drop_suffix _ _, ?_⟩
  rw [State.controllerTurn_negWait ch hf, State.negPop_fails ha ht hin (by simp [herr, hmay]), State.popFailed,
    State.negFail_eq]
  rfl

/-- Settles O60: the turn sets the timeout flag exactly when enabled and held, which needs the flag clear. -/
theorem timeoutOnlyWhileHeld : Obligations.TimeoutOnlyWhileHeld := by
  unfold Obligations.TimeoutOnlyWhileHeld
  intro s ts hsched
  rw [step_of_sched hsched, State.takeTurn, State.timeoutEvent_eq]
  rfl

end Sys2Proof.Machine
end

section
/-! PROOFS. WRITE up to its data accesses (`43_write.md` R114 to R118): what its CMD write does, and what its two cursor
loads do with the cursor check and the space test after them. -/

namespace Sys2Proof.Machine

variable {s : State}

/-! ### The CMD write -/

/-- An idle controller's WRITE on an open socket is its register checks. -/
theorem execWrite_open (hf : s.fsm = .idle) (ho : s.status.isOpen = true) :
    exec .write s = .next (s.setLopc 0x6).writeStart := by
  simp only [exec, execWrite, State.atIdle_idle _ hf, State.withOpen_open _ _ ho]

theorem execWrite_closed (hf : s.fsm = .idle) (ho : s.status.isOpen = false) :
    exec .write s = .next (s.rejected 0x6 .notOpen) := by
  simp only [exec, execWrite, State.atIdle_idle _ hf, State.withOpen_closed _ _ ho, State.raise_setLopc _ _ hf]

/-- The checks do not depend on LOPC. -/
@[simp] theorem State.setLopc_writeChecks (o : BitVec 4) (s : State) : (s.setLopc o).writeChecks = s.writeChecks := rfl

/-- The first check that fails ends WRITE in the step of its CMD write. -/
theorem execWrite_rejected {d : Detail} (hf : s.fsm = .idle) (ho : s.status.isOpen = true)
    (hd : s.writeChecks = some d) : exec .write s = .next (s.rejected 0x6 d) := by
  rw [execWrite_open hf ho, State.writeStart, State.setLopc_writeChecks, hd, ← State.raise_setLopc _ _ hf]

/-- What a WRITE whose checks have passed starts from: EXEC, at the first primitive, with its CMD write recorded. -/
def State.writeStarted (s : State) : State :=
  { s with
    status := { s.status with lopc := 0x6 }
    fsm := .exec
    neg := { s.neg with cmdWord := 0x00000006 }
    xfer := { s.xfer with cmd := .write, phase := .loadPeer, todo := [] }
    ghost := { s.ghost with
      cmdNo := s.ghost.cmdNo + 1
      trace := ⟨.host, s.ghost.cmdNo + 1, .cmdWrite, 0, [], false⟩ :: s.ghost.trace } }

theorem execWrite_starts (hf : s.fsm = .idle) (ho : s.status.isOpen = true)
    (hd : s.writeChecks = none) : exec .write s = .next s.writeStarted := by
  rw [execWrite_open hf ho, State.writeStart, State.setLopc_writeChecks, hd]
  rfl

/-- The register checks after OPEN, in the order of `43_write.md` R114. -/
theorem State.writeChecks_eq (s : State) : s.writeChecks =
    if s.status.rv = false then some .notNegotiated
    else if s.status.hwf = true then some .hwfLatched
    else if s.args.addr = 0 then some .nullAddr
    else if s.args.len = 0 then some .zeroLen
    else if 1040 < s.args.len.toNat then some .tooLong
    else none := by
  cases h : s.status.rv <;> simp only [State.writeChecks, h] <;> rfl

/-- In the Ready state, with the arguments in their ranges, every check passes. -/
theorem State.writeChecks_pass (hrv : s.status.rv = true) (hhwf : s.status.hwf = false) (haddr : s.args.addr ≠ 0)
    (hpos : 0 < s.args.len.toNat) (hmax : s.args.len.toNat ≤ 1040) : s.writeChecks = none := by
  have hlen : s.args.len ≠ 0 := by rintro h; simp [h] at hpos
  simp only [State.writeChecks_eq, hrv, hhwf, haddr, hlen, hmax.not_gt, reduceCtorEq, if_false]

/-- Settles O31: each clause is the first check that fails, and the last is `writeChecks_pass`. -/
theorem writeChecksInOrder : Obligations.WriteChecksInOrder := by
  unfold Obligations.WriteChecksInOrder
  refine fun s hf => ⟨execWrite_closed hf, fun ho hrv => ?_, fun ho hrv hhwf => ?_, fun ho hrv hhwf =>
    ⟨fun haddr => ?_, fun haddr hlen => ?_, fun haddr hlen => ?_, fun haddr hpos hmax => ?_⟩⟩
  · exact execWrite_rejected hf ho (by simp [State.writeChecks_eq, hrv])
  · exact execWrite_rejected hf ho (by simp [State.writeChecks_eq, hrv, hhwf])
  · exact execWrite_rejected hf ho (by simp [State.writeChecks_eq, hrv, hhwf, haddr])
  · exact execWrite_rejected hf ho (by
      simp only [State.writeChecks_eq, hrv, hhwf, haddr, hlen, reduceCtorEq, if_true, if_false])
  · have hne : s.args.len ≠ 0 := by rintro h; simp [h] at hlen
    exact execWrite_rejected hf ho (by
      simp only [State.writeChecks_eq, hrv, hhwf, haddr, hlen, hne, reduceCtorEq, if_true, if_false])
  · exact execWrite_starts hf ho (State.writeChecks_pass hrv hhwf haddr hpos hmax)

/-! ### The two cursor loads -/

/-- In EXEC of a WRITE the controller's step is WRITE's. -/
theorem State.controllerTurn_write (c : CtlChoice) (hf : s.fsm = .exec) (hc : s.xfer.cmd = .write) :
    s.controllerTurn c = .next (s.writeStep c) := by
  simp only [State.controllerTurn, hf, hc]

/-- The value a load of the cursor word at `a` of the local ring returns: the word in memory, but for its free bytes. -/
def State.cursorRead (race : BitVec 4) (a : Word) (s : State) : Word := s.wordRead a (s.cmdMarks s.localRing race a)

/-- A cursor's bytes are memory's where they do not race or lie in the source buffer (`20_memory.md` R47, R53). -/
theorem State.cursorRead_eq {race : BitVec 4} {a : Word} (hrace : race = 0)
    (hbuf : ∀ k < 4, inRun s.args.addr s.args.len.toNat (a + BitVec.ofNat 32 k) = false) :
    s.cursorRead race a = s.mem.read32 a := by
  subst hrace
  exact State.wordRead_cmdMarks fun k hk => State.overlapped_of_not_buffer (hbuf k hk)

/-- The record after a load of the cursor word at `a` of the local ring. -/
def State.cursorRecorded (kind : EventKind) (race : BitVec 4) (a : Word) (s : State) : Ghost :=
  s.readRecorded kind a (s.cmdMarks s.localRing race a) (s.cursorRead race a) (s.cursorAccess kind a 4)

/-- The first primitive keeps the value of local.readIndex and goes to the second. -/
theorem State.writeLoadPeer_eq (race : BitVec 4) (s : State) : s.writeLoadPeer race =
    { s with
      xfer := { s.xfer with r := s.cursorRead race (s.rings.lbase + 4), phase := .loadOwn }
      ghost := s.cursorRecorded .acqRead race (s.rings.lbase + 4) } := by
  simp only [State.writeLoadPeer, RingView.ridxAddr_eq]
  rfl

/-- What WRITE's checks make of the loaded writeIndex `w`, the record being `gh` then (`43_write.md` R117, R118). -/
def State.writeLoaded (w : Word) (gh : Ghost) (s : State) : State :=
  if cursorOK s.xfer.r s.rings.lcap.toNat = true ∧ cursorOK w s.rings.lcap.toNat = true then
    if freeSpace w.toNat s.xfer.r.toNat s.rings.lcap.toNat < 24 + s.args.len.toNat + 16 then
      { s with
        status := { s.status with err := .insufficientSpace, detail := .wrNoRoom }
        fsm := .idle, xfer := { s.xfer with w := w }, ghost := gh }
    else
      { s with
        xfer := { s.xfer with
          w := w, phase := .data, todo := s.writePlan w.toNat
          pos := (w.toNat + (24 + s.args.len.toNat)) % s.rings.lcap.toNat }
        ghost := gh }
  else
    { s with
      status := { s.status with hwf := true, err := .hardwareState, detail := .cursorInvalid }
      fsm := .idle, xfer := { s.xfer with w := w }, ghost := gh }

/-- The second primitive keeps the value of local.writeIndex and makes the two checks. -/
theorem State.writeLoadOwn_eq (race : BitVec 4) (s : State) : s.writeLoadOwn race =
    s.writeLoaded (s.cursorRead race s.rings.lbase) (s.cursorRecorded .plainRead race s.rings.lbase) := by
  simp only [State.writeLoadOwn, State.writeLoaded, RingView.widxAddr_eq, Bool.not_eq_true', ← Bool.not_eq_true,
    Bool.and_eq_true, ite_not]
  rfl

/-- With cursors that pass `cursorOK` and room for the block, both checks pass. -/
theorem State.writeLoaded_pass {w : Word} (gh : Ghost) (hr : cursorOK s.xfer.r s.rings.lcap.toNat = true)
    (hw : cursorOK w s.rings.lcap.toNat = true)
    (hroom : 24 + s.args.len.toNat + 16 ≤ freeSpace w.toNat s.xfer.r.toNat s.rings.lcap.toNat) :
    s.writeLoaded w gh =
      { s with
        xfer := { s.xfer with
          w := w, phase := .data, todo := s.writePlan w.toNat
          pos := (w.toNat + (24 + s.args.len.toNat)) % s.rings.lcap.toNat }
        ghost := gh } := by
  rw [State.writeLoaded, if_pos ⟨hr, hw⟩, if_neg (by omega)]

theorem State.writeStep_loadPeer {c : CtlChoice} (hp : s.xfer.phase = .loadPeer) (hb : c.busError = false) :
    s.writeStep c = s.writeLoadPeer c.race := by
  simp [State.writeStep, hp, hb]

theorem State.writeStep_loadOwn {c : CtlChoice} (hp : s.xfer.phase = .loadOwn) (hb : c.busError = false) :
    s.writeStep c = s.writeLoadOwn c.race := by
  simp [State.writeStep, hp, hb]

/-- Settles O32: the two loads by their equations, and in a state of the invariant both words are the local ring's. -/
theorem writeTestsCursorsAndSpace : Obligations.WriteTestsCursorsAndSpace := by
  unfold Obligations.WriteTestsCursorsAndSpace
  intro s ch hf hc hb
  refine ⟨fun hi => ?_, fun hp => ⟨s.cursorRead ch.race (s.rings.lbase + 4), ?_, ?_⟩,
    fun hp => ⟨s.cursorRead ch.race s.rings.lbase, ?_, ?_⟩⟩
  · obtain ⟨_, hrv, _⟩ := hi.socket.execReady hf
    exact ⟨State.cursorAccess_rings (k := .acqRead) hi.socket hrv nofun (.inl rfl) (.inr rfl),
      State.cursorAccess_rings (k := .plainRead) hi.socket hrv nofun (.inl rfl) (.inl rfl)⟩
  · exact State.cursorRead_eq
  · rw [State.controllerTurn_write ch hf hc, State.writeStep_loadPeer hp hb, State.writeLoadPeer_eq]
    rfl
  · exact State.cursorRead_eq
  · rw [State.controllerTurn_write ch hf hc, State.writeStep_loadOwn hp hb, State.writeLoadOwn_eq]
    rfl

end Sys2Proof.Machine
end

section
/-! PROOFS. Data accesses in any order (`20_memory.md` R42, R50): when the pending accesses of a command bring memory to
one outcome, every order of them does, in as many steps as they take, and nothing else of the state changes. -/

namespace Sys2Proof.Machine

variable {s t u : State} {c : CtlChoice} {es fs : List Event} {todo : List DataOp} {op x : DataOp} {i : Nat} {a : Word}
  {m n : Mem}

/-! ### The pending accesses -/

/-- A pending access is the one at place `i` or one of the others. -/
theorem mem_iff_eraseIdx (h : todo[i]? = some op) : x ∈ todo ↔ x = op ∨ x ∈ todo.eraseIdx i := by
  obtain ⟨hi, rfl⟩ := List.getElem?_eq_some_iff.1 h
  rw [← (List.getElem_cons_eraseIdx_perm hi).mem_iff, List.mem_cons]

/-- With the one at place `i` replaced, it is the new one or one of the others. -/
theorem mem_set_iff_eraseIdx (h : todo[i]? = some op) (y : DataOp) :
    x ∈ todo.set i y ↔ x = y ∨ x ∈ todo.eraseIdx i := by
  obtain ⟨hi, _⟩ := List.getElem?_eq_some_iff.1 h
  rw [(List.set_perm_cons_eraseIdx hi y).mem_iff, List.mem_cons]

/-- Some pending access writes the byte at `a`. -/
def PendingAt (todo : List DataOp) (a : Word) : Prop := ∃ op ∈ todo, op.target = some a

theorem pendingAt_iff_eraseIdx (h : todo[i]? = some op) :
    PendingAt todo a ↔ op.target = some a ∨ PendingAt (todo.eraseIdx i) a := by
  simp only [PendingAt, mem_iff_eraseIdx h, or_and_right, exists_or, exists_eq_left]

theorem pendingAt_set (h : todo[i]? = some op) (y : DataOp) :
    PendingAt (todo.set i y) a ↔ y.target = some a ∨ PendingAt (todo.eraseIdx i) a := by
  simp only [PendingAt, mem_set_iff_eraseIdx h, or_and_right, exists_or, exists_eq_left]

theorem stepsOf_eq_zero : stepsOf todo = 0 ↔ todo = [] := by
  refine ⟨fun h => ?_, fun h => h ▸ rfl⟩
  cases todo with
  | nil => rfl
  | cons op todo => cases op <;> simp [stepsOf, DataOp.steps] at h

/-! ### What the accesses bring memory to -/

/-- The access, in no overlap, brings its byte to what memory `n` has there: it writes that value, or copies it from a
byte that has it in `n` too. -/
inductive DataOp.Brings (n : Mem) : DataOp → Prop where
  | put (dst : Word) : Brings n (.put dst (n.read8 dst) false)
  | copy {src dst : Word} (h : n.read8 dst = n.read8 src) : Brings n (.copy src dst false false)

/-- Memory `m` becomes `n` by the pending accesses in any order: every byte is as in `n` or is still to be written,
every access brings its byte to `n`, and none reads a byte that another is to write. -/
structure Filling (n m : Mem) (todo : List DataOp) : Prop where
  wf : Mem.wf m = true
  brings : ∀ op ∈ todo, op.Brings n
  settled : ∀ a, ¬ PendingAt todo a → m.read8 a = n.read8 a
  sources : ∀ src dst o o', DataOp.copy src dst o o' ∈ todo → ¬ PendingAt todo src

/-- With none pending, every byte is settled. -/
theorem Filling.done (h : Filling n m []) (a : Word) : m.read8 a = n.read8 a := h.settled a (by simp [PendingAt])

/-- A write at any place of the list settles its byte. -/
theorem Filling.put {dst : Word} {b : Byte} {o : Bool} (h : Filling n m todo) (hi : todo[i]? = some (.put dst b o)) :
    Filling n (m.write8 dst b) (todo.eraseIdx i) where
  wf := Mem.wf_write8 h.wf dst b
  brings op hop := h.brings op ((mem_iff_eraseIdx hi).2 (.inr hop))
  settled a ha := by
    rw [Mem.read8_write8 h.wf]
    split
    · next hdst =>
      subst hdst
      cases h.brings _ (List.mem_of_getElem? hi)
      rfl
    · next hdst =>
      refine h.settled a fun hp => ha (((pendingAt_iff_eraseIdx hi).1 hp).resolve_left fun htarget => hdst ?_)
      exact (Option.some.inj htarget).symm
  sources src dst o o' hop hp :=
    h.sources src dst o o' ((mem_iff_eraseIdx hi).2 (.inr hop)) ((pendingAt_iff_eraseIdx hi).2 (.inr hp))

/-- A copy's read turns it into the write of the value that memory `n` has at its destination. -/
theorem Filling.copy {src dst : Word} {o o' : Bool} (h : Filling n m todo) (hi : todo[i]? = some (.copy src dst o o')) :
    Filling n m (todo.set i (.put dst (m.read8 src) o')) := by
  have hpending : ∀ a, PendingAt (todo.set i (.put dst (m.read8 src) o')) a ↔ PendingAt todo a := fun a => by
    rw [pendingAt_set hi, pendingAt_iff_eraseIdx hi]
    rfl
  have hmem := List.mem_of_getElem? hi
  refine ⟨h.wf, fun op hop => ?_, fun a ha => h.settled a (ha ∘ (hpending a).2), fun s d p p' hop hp => ?_⟩
  · rcases (mem_set_iff_eraseIdx hi _).1 hop with rfl | hop
    · have hsrc := h.settled src (h.sources src dst o o' hmem)
      cases h.brings _ hmem with
      | copy heq =>
        rw [hsrc, ← heq]
        exact .put dst
    · exact h.brings op ((mem_iff_eraseIdx hi).2 (.inr hop))
  · rcases (mem_set_iff_eraseIdx hi _).1 hop with hput | hop
    · cases hput
    · exact h.sources s d p p' ((mem_iff_eraseIdx hi).2 (.inr hop)) ((hpending s).1 hp)

/-! ### The steps -/

/-- `t` is `s` after the data accesses `es`, newest first: memory, the pending accesses and the record alone differ. -/
def Accessed (s t : State) (es : List Event) : Prop :=
  (∀ e ∈ es, e.isDataAccess s.ghost.cmdNo) ∧
    ∃ (m : Mem) (todo : List DataOp) (p : Phase) (d : Nat),
      t = { s with
        mem := m
        xfer := { s.xfer with todo := todo, phase := p }
        ghost := { s.ghost with draws := d, trace := es ++ s.ghost.trace } }

theorem Accessed.refl (s : State) : Accessed s s [] := ⟨nofun, s.mem, s.xfer.todo, s.xfer.phase, s.ghost.draws, rfl⟩

theorem Accessed.trans (h : Accessed s t es) (h' : Accessed t u fs) : Accessed s u (fs ++ es) := by
  obtain ⟨hes, m, todo, p, d, rfl⟩ := h
  obtain ⟨hfs, m', todo', p', d', rfl⟩ := h'
  refine ⟨fun e he => ?_, m', todo', p', d', by simp only [List.append_assoc]⟩
  exact (List.mem_append.1 he).elim (hfs e) (hes e)

/-- A data access of one byte that neither races nor overlaps. -/
theorem isDataAccess_byte {k : EventKind} (hk : k = .plainRead ∨ k = .plainWrite) (s : State) (a : Word)
    (b : EventByte) :
    Event.isDataAccess s.ghost.cmdNo ⟨.controller, s.ghost.cmdNo, k, a, [b], s.cursorAccess k a 1⟩ :=
  ⟨rfl, rfl, hk, rfl, by simp [State.cursorAccess]⟩

theorem State.performOp_put_accessed (i : Nat) (dst : Word) (b : Byte) (s : State) :
    Accessed s (s.performOp false i (.put dst b false))
      [⟨.controller, s.ghost.cmdNo, .plainWrite, dst, [⟨b, Mark.clear⟩], s.cursorAccess .plainWrite dst 1⟩] :=
  ⟨fun _ he => List.mem_singleton.1 he ▸ isDataAccess_byte (.inr rfl) s dst _, _, _, _, _, rfl⟩

theorem State.performOp_copy_accessed (i : Nat) (src dst : Word) (o : Bool) (s : State) :
    Accessed s (s.performOp false i (.copy src dst false o))
      [⟨.controller, s.ghost.cmdNo, .plainRead, src, [⟨s.mem.read8 src, Mark.clear⟩],
        s.cursorAccess .plainRead src 1⟩] :=
  ⟨fun _ he => List.mem_singleton.1 he ▸ isDataAccess_byte (.inl rfl) s src _, _, _, _, _, rfl⟩

/-- The phase of a command whose data accesses run: the publish follows the last one. -/
def Phase.ofTodo (todo : List DataOp) : Phase := if todo.isEmpty then .publish else .data

/-- One data access, whichever is picked: memory is one step nearer to `n`. -/
theorem State.dataStep_filling (hc : c.clean) (h : Filling n s.mem s.xfer.todo) (hne : s.xfer.todo ≠ []) :
    ∃ e, Accessed s (s.dataStep c) [e] ∧ Filling n (s.dataStep c).mem (s.dataStep c).xfer.todo ∧
      stepsOf (s.dataStep c).xfer.todo + 1 = stepsOf s.xfer.todo ∧
      (s.dataStep c).xfer.phase = .ofTodo (s.dataStep c).xfer.todo := by
  obtain ⟨hb, _, hrace⟩ := hc
  obtain ⟨i, op, _, hget, heq⟩ := State.dataStep_cases c hne
  rw [heq, hb, hrace, if_neg Bool.false_ne_true, show (0 : BitVec 4).getLsbD 0 = false from rfl]
  cases h.brings op (List.mem_of_getElem? hget) with
  | put dst => exact ⟨_, s.performOp_put_accessed i dst _, h.put hget, stepsOf_eraseIdx hget, rfl⟩
  | @copy src dst _ =>
    refine ⟨_, s.performOp_copy_accessed i src dst false, h.copy hget, ?_, rfl⟩
    have hsteps := stepsOf_set (.put dst (s.mem.read8 src) false) hget
    exact Nat.add_right_cancel (m := 1) hsteps

/-! ### Runs -/

theorem runChoices_append {cs ds : List CtlChoice} (h : runChoices cs s = .next t) :
    runChoices (cs ++ ds) s = runChoices ds t := by
  induction cs generalizing s with
  | nil => cases h; rfl
  | cons c cs ih =>
    cases hturn : s.controllerTurn c <;> simp only [List.cons_append, runChoices, hturn] at h ⊢
    · exact ih h
    · cases h
    · cases h

theorem runChoices_cons (cs : List CtlChoice) (h : s.controllerTurn c = .next t) :
    runChoices (c :: cs) s = runChoices cs t := by
  simp only [runChoices, h]

/-- In the data phase the controller's step is a data access, for either command. -/
theorem State.controllerTurn_data (c : CtlChoice) (hf : s.fsm = .exec) (hp : s.xfer.phase = .data) :
    s.controllerTurn c = .next (s.dataStep c) := by
  cases hcmd : s.xfer.cmd <;> simp only [State.controllerTurn, State.writeStep, State.readStep, hf, hp, hcmd]

/-- The data phase as a whole: as many clean steps as the pending accesses take bring memory to `n` and the command to
its publish, in every order. -/
theorem runChoices_data {cs : List CtlChoice} (hf : s.fsm = .exec) (hp : s.xfer.phase = .ofTodo s.xfer.todo)
    (h : Filling n s.mem s.xfer.todo) (hc : ∀ c ∈ cs, c.clean) (hlen : cs.length = stepsOf s.xfer.todo) :
    ∃ t es, runChoices cs s = .next t ∧ Accessed s t es ∧ es.length = cs.length ∧ t.xfer.phase = .publish ∧
      Filling n t.mem [] := by
  induction cs generalizing s with
  | nil =>
    have htodo := stepsOf_eq_zero.1 hlen.symm
    rw [htodo] at hp h
    exact ⟨s, [], rfl, .refl s, rfl, hp, h⟩
  | cons c cs ih =>
    have hne : s.xfer.todo ≠ [] := fun hnil => by simp [hnil, stepsOf] at hlen
    have hdata : s.xfer.phase = .data := by simpa [Phase.ofTodo, hne] using hp
    obtain ⟨e, hacc, hfill, hsteps, hphase⟩ := State.dataStep_filling (hc c List.mem_cons_self) h hne
    have hf' : (s.dataStep c).fsm = .exec := by
      obtain ⟨_, m, todo, p, d, heq⟩ := hacc
      rw [heq]
      exact hf
    have hlen' : cs.length = stepsOf (s.dataStep c).xfer.todo := by
      simp only [List.length_cons] at hlen
      omega
    obtain ⟨t, es, hrun, hacc', heslen, hpub, hdone⟩ :=
      ih hf' hphase hfill (fun c hmem => hc c (List.mem_cons_of_mem _ hmem)) hlen'
    refine ⟨t, es ++ [e], ?_, hacc.trans hacc', by simp [heslen], hpub, hdone⟩
    rw [runChoices_cons cs (State.controllerTurn_data c hf hdata), hrun]

end Sys2Proof.Machine
end

section
/-! PROOFS. The whole of WRITE (`43_write.md` R114 to R125): its data accesses bring memory to what RB_WRITE of the
block leaves, in every order, and then the cursor is published and the signal sent. -/

namespace Sys2Proof.Machine

variable {s t u : State} {c : CtlChoice} {a : Word} {k i w : Nat}

/-! ### Where the block stands -/

/-- The address of a block byte, as a distance from the ring's base. -/
theorem RingView.byteAddr_eq (g : RingView) (hdr pos i : Nat) :
    g.byteAddr hdr pos i = g.base + BitVec.ofNat 32 (hdr + (pos + i) % g.cap) := by
  simp [RingView.byteAddr, RingView.dataAddr, addr32, BitVec.ofNat_add, BitVec.add_assoc]

/-- Different distances below 2^32 from one base are different addresses. -/
theorem add_ofNat_ne {b : Word} {i j : Nat} (hi : i < 2 ^ 32) (hj : j < 2 ^ 32) (hij : i ≠ j) :
    b + BitVec.ofNat 32 i ≠ b + BitVec.ofNat 32 j := by
  intro h
  have h' := congrArg BitVec.toNat ((BitVec.add_right_inj b).1 h)
  rw [BitVec.toNat_ofNat, BitVec.toNat_ofNat, Nat.mod_eq_of_lt hi, Nat.mod_eq_of_lt hj] at h'
  exact hij h'

/-- The bytes of the block (`43_write.md` R120): the head, then the payload from the source buffer. -/
def State.writeBlock (s : State) : List Byte :=
  s.blockHead ++ (List.range s.args.len.toNat).map fun i => s.mem.read8 (s.args.addr + BitVec.ofNat 32 i)

@[simp] theorem State.writeBlock_length (s : State) : s.writeBlock.length = 24 + s.args.len.toNat := by
  simp [State.writeBlock]

theorem le32_getElem? (v : Word) (hk : k < 4) : (le32 v)[k]? = some (byteOf v k) := by
  interval_cases k <;> rfl

/-- The length field: L = 20 + P, little-endian. -/
theorem State.writeBlock_length_field (s : State) (hk : k < 4) :
    s.writeBlock[k]? = some (byteOf (BitVec.ofNat 32 (20 + s.args.len.toNat)) k) := by
  rw [State.writeBlock, List.getElem?_append_left (by simp; omega), State.blockHead, List.append_assoc,
    List.getElem?_append_left (by simpa using hk), le32_getElem? _ hk]
  rfl

theorem State.writeBlock_id (s : State) (hk : k < 16) : s.writeBlock[4 + k]? = some (s.args.id.byte k) := by
  rw [State.writeBlock, List.getElem?_append_left (by simp; omega), State.blockHead,
    List.getElem?_append_left (by simp; omega), List.getElem?_append_right (by simp)]
  simp [IdRegs.bytes, hk]

theorem State.writeBlock_reserved (s : State) (hk : k < 4) : s.writeBlock[20 + k]? = some 0 := by
  rw [State.writeBlock, List.getElem?_append_left (by simp; omega), State.blockHead,
    List.getElem?_append_right (by simp)]
  have hindex : 20 + k -
      (le32 (BitVec.ofNat 32 (Config.msgHdrSize + s.args.len.toNat)) ++ s.args.id.bytes).length = k := by simp
  rw [hindex, le32_getElem? _ hk]
  simp [byteOf]

theorem State.writeBlock_payload (s : State) (hi : i < s.args.len.toNat) :
    s.writeBlock[24 + i]? = some (s.mem.read8 (s.args.addr + BitVec.ofNat 32 i)) := by
  rw [State.writeBlock, List.getElem?_append_right (by simp)]
  simp [hi]

/-! ### The data accesses -/

/-- WRITE's data accesses write the bytes of its block, each once, in the order of the block. -/
theorem State.writePlan_target (s : State) (w : Nat) : (s.writePlan w).map DataOp.target =
    (List.range (24 + s.args.len.toNat)).map fun k => some (s.localRing.byteAddr s.cfg.rbHdrSize w k) := by
  have hzip : s.blockHead.zipIdx.map Prod.snd = List.range 24 := by simp [List.range_eq_range']
  have hhead : (s.blockHead.zipIdx.map fun e => s.writeHeadOp w e.1 e.2).map DataOp.target =
      (List.range 24).map fun k => some (s.localRing.byteAddr s.cfg.rbHdrSize w k) := by
    rw [← hzip, List.map_map, List.map_map]
    rfl
  rw [State.writePlan, List.map_append, hhead, List.map_map, List.range_add, List.map_append, List.map_map]
  rfl

theorem State.pendingAt_writePlan (s : State) (w : Nat) : PendingAt (s.writePlan w) a ↔
    ∃ k < 24 + s.args.len.toNat, a = s.localRing.byteAddr s.cfg.rbHdrSize w k := by
  have hmem : PendingAt (s.writePlan w) a ↔ some a ∈ (s.writePlan w).map DataOp.target := by simp [PendingAt]
  rw [hmem, State.writePlan_target]
  simp [eq_comm]

/-- A WRITE whose checks will pass, with a source buffer that shares no byte with the local ring (`43_write.md` R115,
R117, R118; `20_memory.md` R47). -/
structure WriteAdmitted (s : State) : Prop where
  inv : MachineInv s
  idle : s.fsm = .idle
  isOpen : s.status.isOpen = true
  rv : s.status.rv = true
  hwf : s.status.hwf = false
  addr : s.args.addr ≠ 0
  lenPos : 0 < s.args.len.toNat
  lenMax : s.args.len.toNat ≤ 1040
  rOk : cursorOK (s.mem.read32 (s.rings.lbase + 4)) s.localRing.cap = true
  wOk : cursorOK (s.mem.read32 s.rings.lbase) s.localRing.cap = true
  room : 24 + s.args.len.toNat + 16 ≤
    freeSpace (s.mem.read32 s.rings.lbase).toNat (s.mem.read32 (s.rings.lbase + 4)).toNat s.localRing.cap
  apart : ∀ i < s.args.len.toNat, ∀ k < s.cfg.rbHdrSize + s.localRing.cap,
    s.args.addr + BitVec.ofNat 32 i ≠ s.rings.lbase + BitVec.ofNat 32 k

/-- No byte of a command's access is in an overlap. -/
theorem WriteAdmitted.overlapped (h : WriteAdmitted s) (a : Word) : s.overlapped s.localRing a = false :=
  State.overlapped_false h.apart a

theorem WriteAdmitted.ring (h : WriteAdmitted s) :
    0 < s.localRing.cap ∧ s.cfg.rbHdrSize + s.localRing.cap ≤ 2 ^ 31 := by
  obtain ⟨_, _, hpos, _, hbound, _⟩ := h.inv.socket.localOk h.rv
  exact ⟨hpos, Nat.add_comm .. ▸ hbound⟩

/-- The local ring's cursor words are cursor words of the run. -/
theorem WriteAdmitted.cursorAccess (h : WriteAdmitted s) {k : EventKind} (hk : k ≠ .lenRead)
    (ha : a = s.rings.lbase ∨ a = s.rings.lbase + 4) : s.cursorAccess k a 4 = true :=
  State.cursorAccess_rings h.inv.socket h.rv hk (.inl rfl) ha

/-- The block is no longer than the ring. -/
theorem WriteAdmitted.fits (h : WriteAdmitted s) : 24 + s.args.len.toNat ≤ s.localRing.cap := by
  obtain ⟨hrlt, _⟩ := (cursorOK_iff ..).1 h.rOk
  obtain ⟨hwlt, _⟩ := (cursorOK_iff ..).1 h.wOk
  have hsum := freeSpace_add_availData hwlt hrlt
  have hroom := h.room
  omega

/-- No byte of the source buffer is a byte of the block. -/
theorem WriteAdmitted.source_ne (h : WriteAdmitted s) (hi : i < s.args.len.toNat) (w k : Nat) :
    s.args.addr + BitVec.ofNat 32 i ≠ s.localRing.byteAddr s.cfg.rbHdrSize w k := by
  rw [RingView.byteAddr_eq]
  exact h.apart i hi _ (Nat.add_lt_add_left (Nat.mod_lt _ h.ring.1) _)

/-- No byte of the block is a byte of the cursor word. -/
theorem WriteAdmitted.cursor_ne (h : WriteAdmitted s) (w i : Nat) (hk : k < 4) :
    s.localRing.byteAddr s.cfg.rbHdrSize w i ≠ s.rings.lbase + BitVec.ofNat 32 k := by
  obtain ⟨hpos, hbound⟩ := h.ring
  have hlt := Nat.mod_lt (w + i) hpos
  have hleast := h.inv.cfg.hdrLeast
  rw [RingView.byteAddr_eq]
  exact add_ofNat_ne (by omega) (by omega) (by omega)

/-- Memory after WRITE's data accesses: what RB_WRITE of the block leaves (`41_ring_primitives.md` R86). -/
def State.blockWritten (w : Nat) (s : State) : Mem := rbWrite s.cfg.rbHdrSize s.localRing s.mem w s.writeBlock

theorem WriteAdmitted.read8_block (h : WriteAdmitted s) {b : Byte} (hb : s.writeBlock[k]? = some b) :
    (s.blockWritten w).read8 (s.localRing.byteAddr s.cfg.rbHdrSize w k) = b := by
  obtain ⟨hk, rfl⟩ := List.getElem?_eq_some_iff.1 hb
  obtain ⟨_, hbound⟩ := h.ring
  exact read8_rbWrite_at h.inv.mem (s.writeBlock_length.trans_le h.fits) (by omega) hk

theorem WriteAdmitted.read8_outside (h : WriteAdmitted s)
    (ha : ∀ k < 24 + s.args.len.toNat, a ≠ s.localRing.byteAddr s.cfg.rbHdrSize w k) :
    (s.blockWritten w).read8 a = s.mem.read8 a :=
  read8_rbWrite_of_ne h.inv.mem (by simpa using ha)

/-- In every order WRITE's data accesses bring memory to what RB_WRITE of the block leaves (`20_memory.md` R42). -/
theorem WriteAdmitted.filling (h : WriteAdmitted s) (w : Nat) : Filling (s.blockWritten w) s.mem (s.writePlan w) where
  wf := h.inv.mem
  brings op hop := by
    simp only [State.writePlan, List.mem_append, List.mem_map] at hop
    rcases hop with ⟨⟨b, k⟩, hbk, rfl⟩ | ⟨i, hi, rfl⟩
    · have hb : s.writeBlock[k]? = some b := by
        have hhead := List.mem_zipIdx_iff_getElem?.1 hbk
        rwa [State.writeBlock, List.getElem?_append_left (List.getElem?_eq_some_iff.1 hhead).1]
      rw [State.writeHeadOp, h.overlapped, ← h.read8_block (w := w) hb]
      exact .put _
    · rw [List.mem_range] at hi
      rw [State.writePayloadOp, h.overlapped, h.overlapped]
      refine .copy ?_
      rw [h.read8_outside fun k _ => h.source_ne hi w k]
      exact h.read8_block (s.writeBlock_payload hi)
  settled a ha := by
    rw [State.pendingAt_writePlan] at ha
    exact (h.read8_outside fun k hk heq => ha ⟨k, hk, heq⟩).symm
  sources src dst o o' hop := by
    rw [State.pendingAt_writePlan]
    rintro ⟨k, _, hk⟩
    simp only [State.writePlan, List.mem_append, List.mem_map] at hop
    rcases hop with ⟨e, _, he⟩ | ⟨i, hi, he⟩
    · cases he
    · cases he
      exact h.source_ne (List.mem_range.1 hi) w k hk

/-! ### The steps before and after the data accesses -/

/-- A cursor load without race or overlap, as an event. -/
theorem State.cursorRecorded_eq {race : BitVec 4} {kind : EventKind} (hrace : race = 0)
    (hov : ∀ a, s.overlapped s.localRing a = false) (hcur : s.cursorAccess kind a 4 = true) :
    s.cursorRecorded kind race a = { s.ghost with
      draws := s.ghost.draws + 4
      trace := wordEvent s.ghost.cmdNo kind a (s.mem.read32 a) true :: s.ghost.trace } := by
  subst hrace
  rw [State.cursorRecorded, State.readRecorded, State.cursorRead, hcur, State.wordRead_cmdMarks fun _ _ => hov _,
    State.wordBytes_cmdMarks fun _ _ => hov _]
  rfl

/-- The first primitive, with no race and no overlap. -/
theorem State.controllerTurn_writePeer (hf : s.fsm = .exec) (hcmd : s.xfer.cmd = .write) (hp : s.xfer.phase = .loadPeer)
    (hc : c.clean) (hov : ∀ a, s.overlapped s.localRing a = false)
    (hcur : s.cursorAccess .acqRead (s.rings.lbase + 4) 4 = true) :
    s.controllerTurn c = .next
      { s with
        xfer := { s.xfer with r := s.mem.read32 (s.rings.lbase + 4), phase := .loadOwn }
        ghost := { s.ghost with
          draws := s.ghost.draws + 4
          trace := wordEvent s.ghost.cmdNo .acqRead (s.rings.lbase + 4) (s.mem.read32 (s.rings.lbase + 4)) true ::
            s.ghost.trace } } := by
  obtain ⟨hb, _, hrace⟩ := hc
  rw [State.controllerTurn_write c hf hcmd, State.writeStep_loadPeer hp hb, State.writeLoadPeer_eq,
    State.cursorRecorded_eq hrace hov hcur, State.cursorRead, hrace, State.wordRead_cmdMarks fun _ _ => hov _]

/-- The second primitive, with no race and no overlap, where the two checks pass. -/
theorem State.controllerTurn_writeOwn (hf : s.fsm = .exec) (hcmd : s.xfer.cmd = .write) (hp : s.xfer.phase = .loadOwn)
    (hc : c.clean) (hov : ∀ a, s.overlapped s.localRing a = false)
    (hcur : s.cursorAccess .plainRead s.rings.lbase 4 = true) (hr : cursorOK s.xfer.r s.rings.lcap.toNat = true)
    (hw : cursorOK (s.mem.read32 s.rings.lbase) s.rings.lcap.toNat = true)
    (hroom : 24 + s.args.len.toNat + 16 ≤
      freeSpace (s.mem.read32 s.rings.lbase).toNat s.xfer.r.toNat s.rings.lcap.toNat) :
    s.controllerTurn c = .next
      { s with
        xfer := { s.xfer with
          w := s.mem.read32 s.rings.lbase, phase := .data, todo := s.writePlan (s.mem.read32 s.rings.lbase).toNat
          pos := ((s.mem.read32 s.rings.lbase).toNat + (24 + s.args.len.toNat)) % s.rings.lcap.toNat }
        ghost := { s.ghost with
          draws := s.ghost.draws + 4
          trace := wordEvent s.ghost.cmdNo .plainRead s.rings.lbase (s.mem.read32 s.rings.lbase) true ::
            s.ghost.trace } } := by
  obtain ⟨hb, _, hrace⟩ := hc
  rw [State.controllerTurn_write c hf hcmd, State.writeStep_loadOwn hp hb, State.writeLoadOwn_eq,
    State.cursorRecorded_eq hrace hov hcur, State.cursorRead, hrace, State.wordRead_cmdMarks fun _ _ => hov _,
    State.writeLoaded_pass _ hr hw hroom]

/-- A WRITE at the first of its data accesses, its checks passed. -/
def State.writeChecked (s : State) : State :=
  let n := s.ghost.cmdNo + 1
  let r := s.mem.read32 (s.rings.lbase + 4)
  let w := s.mem.read32 s.rings.lbase
  { s.writeStarted with
    xfer := { s.xfer with
      cmd := .write, phase := .data, r := r, w := w, todo := s.writePlan w.toNat
      pos := (w.toNat + (24 + s.args.len.toNat)) % s.localRing.cap }
    ghost := { s.ghost with
      cmdNo := n
      draws := s.ghost.draws + 4 + 4
      trace :=
        wordEvent n .plainRead s.rings.lbase w true ::
        wordEvent n .acqRead (s.rings.lbase + 4) r true ::
        ⟨.host, n, .cmdWrite, 0, [], false⟩ :: s.ghost.trace } }

/-- The two cursor loads and the checks after them. -/
theorem WriteAdmitted.runChoices_loads (h : WriteAdmitted s) {c₁ c₂ : CtlChoice} (h₁ : c₁.clean) (h₂ : c₂.clean)
    (cs : List CtlChoice) : runChoices (c₁ :: c₂ :: cs) s.writeStarted = runChoices cs s.writeChecked := by
  have hpeer := State.controllerTurn_writePeer (s := s.writeStarted) rfl rfl rfl h₁ h.overlapped
    (h.cursorAccess (k := .acqRead) nofun (.inr rfl))
  have hown := h.cursorAccess (k := .plainRead) nofun (.inl rfl)
  refine (runChoices_cons _ hpeer).trans ?_
  exact runChoices_cons cs (State.controllerTurn_writeOwn rfl rfl rfl h₂ h.overlapped hown h.rOk h.wOk h.room)

/-- What the publish of `v` and the signal make of a WRITE (`43_write.md` R124, R125). -/
def State.writeFinished (v : Word) (s : State) : State :=
  { s with
    status := { s.status with err := .ok, detail := .none }
    fsm := .idle
    xfer := { s.xfer with phase := .signal }
    mem := s.mem.writeBytes s.rings.lbase (le32 v)
    mbx := { s.mbx with sigToPartner := s.mbx.sigToPartner + 1 }
    ghost := { s.ghost with
      draws := s.ghost.draws + 4
      trace :=
        ⟨.controller, s.ghost.cmdNo, .signal, 0, [], false⟩ ::
        wordEvent s.ghost.cmdNo .relWrite s.rings.lbase v (s.cursorAccess .relWrite s.rings.lbase 4) ::
        s.ghost.trace } }

/-- The publish, with no race and no overlap. -/
theorem State.controllerTurn_writePublish (hf : s.fsm = .exec) (hcmd : s.xfer.cmd = .write)
    (hp : s.xfer.phase = .publish) (hc : c.clean) (hov : ∀ a, s.overlapped s.localRing a = false) :
    s.controllerTurn c = .next
      ((s.storeBytes .controller .relWrite s.rings.lbase
        (wordBytes (fun _ => Mark.clear) s.writePublished)).setPhase .signal) := by
  obtain ⟨hb, _, hrace⟩ := hc
  have hfree : ∀ k < 4, (s.cmdMarks s.localRing 0 s.rings.lbase k).free = false := fun k _ =>
    State.cmdMarks_free (hov _)
  rw [State.controllerTurn_write c hf hcmd]
  simp only [State.writeStep, hp, State.publishStep, hb, hrace, Bool.false_eq_true, if_false, RingView.widxAddr_eq]
  rw [show s.localRing.base = s.rings.lbase from rfl, State.wordWritten_eq hfree,
    State.wordBytes_cmdMarks fun _ _ => hov _]

theorem State.controllerTurn_writeSignal (c : CtlChoice) (hf : s.fsm = .exec) (hcmd : s.xfer.cmd = .write)
    (hp : s.xfer.phase = .signal) : s.controllerTurn c = .next s.signalPartner.complete := by
  rw [State.controllerTurn_write c hf hcmd]
  simp only [State.writeStep, hp]

/-- After the publish of `v`, the signal and the completion. -/
theorem State.signalPartner_published (v : Word) (s : State) :
    ((s.storeBytes .controller .relWrite s.rings.lbase (wordBytes (fun _ => Mark.clear) v)).setPhase
      .signal).signalPartner.complete = s.writeFinished v := by
  rw [State.storeBytes_eq, wordBytes_val, wordBytes_length]
  rfl

/-- The publish and the signal. -/
theorem runChoices_writeEnd (hf : s.fsm = .exec) (hcmd : s.xfer.cmd = .write) (hp : s.xfer.phase = .publish)
    (hov : ∀ a, s.overlapped s.localRing a = false) {c₁ : CtlChoice} (hc : c₁.clean) (c₂ : CtlChoice) :
    runChoices [c₁, c₂] s = .next (s.writeFinished s.writePublished) := by
  refine (runChoices_cons _ (State.controllerTurn_writePublish hf hcmd hp hc hov)).trans ?_
  rw [← State.signalPartner_published]
  exact runChoices_cons [] (State.controllerTurn_writeSignal c₂ hf hcmd rfl)

/-- A list of WRITE's choices is two for the loads, those of the data accesses, and two for the end. -/
theorem exists_choices_split {α : Type} {cs : List α} {n : Nat} (h : cs.length = 4 + n) :
    ∃ c₁ c₂ ds c₃ c₄, cs = c₁ :: c₂ :: (ds ++ [c₃, c₄]) ∧ ds.length = n := by
  match cs, h with
  | [], h | [_], h => simp at h; omega
  | c₁ :: c₂ :: cs, h =>
    simp only [List.length_cons] at h
    obtain ⟨c₃, c₄, hend⟩ : ∃ c₃ c₄, cs.drop n = [c₃, c₄] := List.length_eq_two.1 (by simp; omega)
    exact ⟨c₁, c₂, cs.take n, c₃, c₄, by rw [← hend, List.take_append_drop], by simp; omega⟩

/-- The whole run of an admitted WRITE: after the data accesses `es`, which leave the block in memory, it publishes and
signals. -/
theorem WriteAdmitted.runChoices_write (h : WriteAdmitted s) {cs : List CtlChoice} (hc : ∀ c ∈ cs, c.clean)
    (hlen : cs.length = 28 + 2 * s.args.len.toNat) :
    ∃ u es, runChoices cs s.writeStarted = .next (u.writeFinished u.writePublished) ∧
      Accessed s.writeChecked u es ∧ es.length = 24 + 2 * s.args.len.toNat ∧ Mem.wf u.mem = true ∧
      ∀ a, u.mem.read8 a = (s.blockWritten (s.mem.read32 s.rings.lbase).toNat).read8 a := by
  obtain ⟨c₁, c₂, ds, c₃, c₄, rfl, hds⟩ := exists_choices_split (cs := cs) (n := 24 + 2 * s.args.len.toNat) (by omega)
  simp only [List.mem_cons, List.mem_append, forall_eq, or_imp, forall_and] at hc
  obtain ⟨h₁, h₂, hdata, h₃, _⟩ := hc
  have htodo : s.writeChecked.xfer.todo = s.writePlan (s.mem.read32 s.rings.lbase).toNat := rfl
  have hphase : s.writeChecked.xfer.phase = .ofTodo s.writeChecked.xfer.todo := by
    simp [Phase.ofTodo, State.writePlan_ne_nil, State.writeChecked]
  have hsteps : ds.length = stepsOf s.writeChecked.xfer.todo := by rw [htodo, State.writePlan_steps, hds]
  obtain ⟨u, es, hrun, hacc, heslen, hpub, hfill⟩ := runChoices_data rfl hphase (h.filling _) hdata hsteps
  refine ⟨u, es, ?_, hacc, heslen.trans hds, hfill.wf, hfill.done⟩
  rw [h.runChoices_loads h₁ h₂, runChoices_append hrun]
  obtain ⟨_, m, todo, p, d, rfl⟩ := hacc
  exact runChoices_writeEnd rfl rfl hpub h.overlapped h₃ c₄

/-- Settles O33: `runChoices_write` says what the run is; the bytes are those of the block, and the publish changes none
of them. -/
theorem writeDeliversTheBlock : Obligations.WriteDeliversTheBlock := by
  unfold Obligations.WriteDeliversTheBlock
  intro s cs hi hf ho hrv hhwf haddr hpos hmax p hdr g n r w hr hw hroom hapart hc hlen
  have h : WriteAdmitted s := ⟨hi, hf, ho, hrv, hhwf, haddr, hpos, hmax, hr, hw, hroom, hapart⟩
  obtain ⟨u, es, hrun, hacc, heslen, hwf, hmem⟩ := h.runChoices_write hc hlen
  have hkept : ∀ a, (∀ k < 4, a ≠ s.rings.lbase + BitVec.ofNat 32 k) →
      (u.mem.writeBytes s.rings.lbase (le32 u.writePublished)).read8 a = (s.blockWritten w.toNat).read8 a := fun a ha =>
    (Mem.read8_publish hwf ha).trans (hmem a)
  have hblock : ∀ {k : Nat} {b : Byte}, s.writeBlock[k]? = some b →
      (u.mem.writeBytes s.rings.lbase (le32 u.writePublished)).read8 (g.byteAddr hdr w.toNat k) = b := fun hb =>
    (hkept _ fun _ hk => h.cursor_ne _ _ hk).trans (h.read8_block hb)
  have hcur := h.cursorAccess (k := .relWrite) nofun (.inl rfl)
  have hstart := execWrite_starts hf ho (State.writeChecks_pass hrv hhwf haddr hpos hmax)
  obtain ⟨hes, m, todo, q, d, rfl⟩ := hacc
  refine ⟨s.writeStarted, _, hstart, hrun, rfl, rfl, fun k hk => hblock (s.writeBlock_length_field hk),
    fun k hk => hblock (s.writeBlock_id hk), fun k hk => hblock (s.writeBlock_reserved hk),
    fun i hi => hblock (s.writeBlock_payload hi), Mem.read32_writeBytes_le32 hwf _ _,
    fun a hblk hword => (hkept a hword).trans (h.read8_outside hblk), rfl, rfl, rfl, rfl, rfl, rfl, rfl, rfl,
    es, heslen, hes, ?_⟩
  exact congrArg (fun b => _ :: wordEvent _ _ _ _ b :: _) hcur

end Sys2Proof.Machine
end

section
/-! PROOFS. The signals sent to the partner (`43_write.md` R125, `44_read.md` R140, `42_negotiation.md` R111): no
turn but the controller's at its signal adds one, said turn by turn. -/

namespace Sys2Proof.Machine

variable {s t : State} {c : CtlChoice}

/-- As many signals as before are sent to the partner and not delivered. -/
def SignalsKept (s t : State) : Prop := t.mbx.sigToPartner = s.mbx.sigToPartner

/-! ### The controller's turn -/

theorem LoadEnds.signalsKept {p : Phase} (h : LoadEnds p s t) : SignalsKept s t := by
  cases h <;> rfl

theorem State.dataStep_signalsKept (c : CtlChoice) (s : State) : SignalsKept s (s.dataStep c) := by
  simp only [State.dataStep]
  split
  · rfl
  · next op _ =>
    split
    · rfl
    · cases op <;> rfl

theorem State.publishStep_signalsKept (c : CtlChoice) (g : RingView) (a v : Word) (s : State) :
    SignalsKept s (s.publishStep c g a v) := by
  rcases s.publishStep_cases c g a v with ⟨_, h⟩ | ⟨_, h⟩ <;> rw [h] <;> rfl

/-- A primitive that may get an error response. -/
theorem SignalsKept.ite_busFail (b : Bool) (h : SignalsKept s t) : SignalsKept s (if b then s.busFail else t) := by
  cases b
  · exact h
  · rfl

/-- Before its signal a WRITE sends none. -/
theorem State.writeStep_signalsKept (c : CtlChoice) (hp : s.xfer.phase ≠ .signal) : SignalsKept s (s.writeStep c) := by
  simp only [State.writeStep]
  split
  · exact .ite_busFail _ rfl
  · obtain ⟨_, _, hends⟩ := s.writeLoadOwn_ends c.race
    exact .ite_busFail _ hends.signalsKept
  · rfl
  · exact s.dataStep_signalsKept c
  · exact s.publishStep_signalsKept c _ _ _
  · exact absurd ‹_› hp

/-- Before its signal a READ sends none. -/
theorem State.readStep_signalsKept (c : CtlChoice) (hp : s.xfer.phase ≠ .signal) : SignalsKept s (s.readStep c) := by
  simp only [State.readStep]
  split
  · exact .ite_busFail _ rfl
  · obtain ⟨_, _, hends⟩ := s.readLoadOwn_ends c.race
    exact .ite_busFail _ hends.signalsKept
  · obtain ⟨_, _, _, hends⟩ := s.readLoadLen_ends c.race
    exact .ite_busFail _ hends.signalsKept
  · exact s.dataStep_signalsKept c
  · exact s.publishStep_signalsKept c _ _ _
  · exact absurd ‹_› hp

theorem State.negAbort_signalsKept (s : State) : SignalsKept s s.negAbort := by
  rw [State.negAbort_eq]
  split <;> rfl

theorem State.negFail_signalsKept (d : Detail) (s : State) : SignalsKept s (s.negFail d) := by
  rw [State.negFail_eq]
  rfl

theorem State.takeEntry_signalsKept (e : Entry) (s : State) : SignalsKept s (s.takeEntry e) := by
  simp only [State.takeEntry]
  split
  · split
    · simp only [State.negEval]
      split
      · exact State.negFail_signalsKept _ _
      · rw [State.negSuccess_eq]
        rfl
    · rfl
  · rfl
  · rfl

/-- A negotiation sends no signal. -/
theorem State.negPop_signalsKept (h : s.negPop c = .next t) : SignalsKept s t := by
  rcases State.negPop_cases h with ⟨_, rfl⟩ | ⟨_, _, rfl⟩ | ⟨_, _, _, rfl⟩ | ⟨_, _, e, es, _, ⟨_, rfl⟩ | ⟨_, rfl⟩⟩
  · exact s.negAbort_signalsKept
  · exact s.negFail_signalsKept _
  · rfl
  · exact State.negFail_signalsKept _ _
  · exact (s.popped e es).takeEntry_signalsKept e

theorem State.controllerTurn_signalsKept (hp : ¬ (s.fsm = .exec ∧ s.xfer.phase = .signal))
    (h : s.controllerTurn c = .next t) : SignalsKept s t := by
  rcases State.controllerTurn_cases h with ⟨_, rfl⟩ | ⟨_, h⟩ | ⟨hf, _, rfl⟩ | ⟨hf, _, rfl⟩
  · rfl
  · exact State.negPop_signalsKept h
  · exact State.writeStep_signalsKept c fun hsig => hp ⟨hf, hsig⟩
  · exact State.readStep_signalsKept c fun hsig => hp ⟨hf, hsig⟩

/-- At its signal a WRITE or READ sends one, changes the mailbox in nothing else, and completes OK. -/
theorem State.controllerTurn_signals (hf : s.fsm = .exec) (hp : s.xfer.phase = .signal)
    (h : s.controllerTurn c = .next t) :
    t.mbx = { s.mbx with sigToPartner := s.mbx.sigToPartner + 1 } ∧ t.fsm = .idle ∧
      t.status = { s.status with err := .ok, detail := .none } := by
  cases hcmd : s.xfer.cmd <;> simp only [State.controllerTurn, State.writeStep, State.readStep, hf, hp, hcmd] at h <;>
    cases h <;> exact ⟨rfl, rfl, rfl⟩

/-! ### The host's turn -/

theorem State.atIdle_signalsKept {f : State → State} (h : SignalsKept s (f s)) : SignalsKept s (s.atIdle f) := by
  simp only [State.atIdle]
  split
  · exact h
  · rfl
  · rfl

theorem State.atIdleOrAbort_signalsKept (i : Instr) {f : State → State} (h : SignalsKept s (f s)) :
    SignalsKept s (s.atIdleOrAbort i f) := by
  simp only [State.atIdleOrAbort]
  split
  · exact h
  · rfl
  · rfl

theorem State.withOpen_signalsKept {o : BitVec 4} {f : State → State} (h : SignalsKept s (f (s.setLopc o))) :
    SignalsKept s (s.withOpen o f) := by
  simp only [State.withOpen]
  split
  · exact h
  · rfl

/-- No command sends a signal in the step of its CMD write, and no tag sends one (`42_negotiation.md` R111). -/
theorem exec_signalsKept {i : Instr} (h : exec i s = .next t) : SignalsKept s t := by
  cases i <;> cases h
  case openSocket rxie =>
    refine State.atIdle_signalsKept ?_
    simp only [State.openIdle]
    split <;> rfl
  case close => exact State.atIdleOrAbort_signalsKept _ (State.withOpen_signalsKept rfl)
  case negPend => exact State.atIdle_signalsKept (State.withOpen_signalsKept rfl)
  case negotiate => exact State.atIdle_signalsKept (State.withOpen_signalsKept rfl)
  case reset both => exact State.atIdleOrAbort_signalsKept _ (State.withOpen_signalsKept rfl)
  case write =>
    refine State.atIdle_signalsKept (State.withOpen_signalsKept ?_)
    simp only [State.writeStart]
    split <;> rfl
  case read =>
    refine State.atIdle_signalsKept (State.withOpen_signalsKept ?_)
    simp only [State.readStart]
    split <;> rfl
  all_goals exact s.takeEntry_signalsKept _

theorem State.cmdWrite_signalsKept {v : Word} (h : s.cmdWrite v = .next t) : SignalsKept s t := by
  simp only [State.cmdWrite] at h
  split at h
  · exact exec_signalsKept h
  · cases h
    exact State.atIdle_signalsKept rfl

theorem State.writeReg_signalsKept (r : Reg) (v : Word) (s : State) : SignalsKept s (s.writeReg r v) := by
  have harg : ∀ f, SignalsKept s (s.writeArg f) := fun f => by
    simp only [State.writeArg]
    split <;> rfl
  cases r
  case status | irqPend => simp only [State.writeReg]; split <;> rfl
  case id0 | id1 | id2 | id3 | addr | len => exact harg _
  all_goals rfl

theorem State.hostRead_signalsKept (acc : Access) (s : State) : SignalsKept s (s.hostRead acc) := by
  rw [State.hostRead_eq]
  rfl

theorem State.hostAct_signalsKept {a : HostAct} {rest : List HostAct} (h : s.hostAct a rest = .next t) :
    SignalsKept s t := by
  cases a with
  | regRead acc =>
    simp only [State.hostAct] at h
    split at h <;> cases h
    · exact (s.setHostProg rest).hostRead_signalsKept acc
    · rfl
  | regWrite acc v =>
    simp only [State.hostAct] at h
    split at h
    · rcases State.writeOffset_cases h with ⟨_, rfl⟩ | ⟨_, h⟩ | ⟨r, _, _, rfl⟩
      · rfl
      · exact (s.hostWrote rest).cmdWrite_signalsKept h
      · exact (s.hostWrote rest).writeReg_signalsKept r v
    · cases h
      rfl
  | poll acc mask value =>
    simp only [State.hostAct] at h
    split at h
    · split at h <;> cases h
      · exact (s.setHostProg rest).hostRead_signalsKept acc
      · exact s.hostRead_signalsKept acc
    · cases h
      rfl
  | load | store | load32 | store32 | loadAcq | storeRel =>
    cases h
    rfl

/-! ### The other turns -/

/-- The partner's own signals are on the other line. -/
theorem State.partnerTurn_signalsKept (s : State) : SignalsKept s s.partnerTurn := by
  simp only [State.partnerTurn]
  split
  · rfl
  · next a _ _ =>
    cases a
    case push | signal => simp only [State.partnerAct]; split <;> rfl
    all_goals rfl

theorem State.resetInput_signalsKept (s : State) : SignalsKept s s.resetInput := by
  obtain ⟨hframe, _⟩ := State.scramble_frame s.abandonedTargets s
  rw [State.resetInput, hframe]
  rfl

/-- A delivery takes signals off the line and adds none. -/
theorem State.deliverToPartner_signals (n : Nat) (s : State) :
    (s.deliverToPartner n).mbx.sigToPartner ≤ s.mbx.sigToPartner := by
  simp only [State.deliverToPartner]
  split
  · exact le_rfl
  · exact Nat.sub_le _ _

/-! ### The step -/

theorem setSched_self {ts : List Turn} (h : s.env.sched = ts) : s.setSched ts = s := by
  subst h
  rfl

/-- When the controller moves, the step is its turn. -/
theorem step_of_controllerMoves (h : s.controllerMoves c) : ∃ ts, step s = (s.setSched ts).controllerTurn c := by
  rcases h with ⟨hs, rfl⟩ | ⟨ts, hs⟩
  · exact ⟨s.env.sched, by simp only [step, State.nextTurn, hs]; rw [setSched_self hs]⟩
  · exact ⟨ts, step_of_sched hs⟩

/-- Every step but the signal of a WRITE or READ keeps the line to the partner, or is a delivery. -/
theorem step_signals (hns : ¬ ((∃ ch, s.controllerMoves ch) ∧ s.fsm = .exec ∧ s.xfer.phase = .signal))
    (h : step s = .next t) :
    SignalsKept s t ∨ ∃ n ts, s.env.sched = .deliverToPartner n :: ts ∧ t = (s.setSched ts).deliverToPartner n := by
  rcases step_cases h with ⟨hs, h⟩ | ⟨turn, ts, hs, h⟩
  · exact .inl (State.controllerTurn_signalsKept (fun hp => hns ⟨⟨_, .inl ⟨hs, rfl⟩⟩, hp⟩) h)
  cases turn with
  | controller c =>
    exact .inl (State.controllerTurn_signalsKept (s := s.setSched ts) (fun hp => hns ⟨⟨c, .inr ⟨ts, hs⟩⟩, hp⟩) h)
  | host =>
    simp only [State.takeTurn, State.hostTurn] at h
    split at h
    · cases h
      exact .inl rfl
    · exact .inl (State.hostAct_signalsKept (s := s.setSched ts) h)
  | partner => cases h; exact .inl (s.setSched ts).partnerTurn_signalsKept
  | deliverToIrbc n =>
    cases h
    simp only [State.deliverToIrbc, State.partnerEvent_eq]
    split <;> exact .inl rfl
  | deliverToPartner n => cases h; exact .inr ⟨n, ts, hs, rfl⟩
  | timeout =>
    cases h
    simp only [State.timeoutEvent]
    split <;> exact .inl rfl
  | reset => cases h; exact .inl (s.setSched ts).resetInput_signalsKept

/-- Settles O58: the controller's turn at its signal, and every other turn. -/
theorem signalOnlyOnSuccess : Obligations.SignalOnlyOnSuccess := by
  unfold Obligations.SignalOnlyOnSuccess
  refine fun s t h => ⟨fun ⟨ch, hm⟩ hf hp => ?_, fun hns => ?_⟩
  · obtain ⟨ts, hstep⟩ := step_of_controllerMoves hm
    exact State.controllerTurn_signals (s := s.setSched ts) hf hp (hstep.symm.trans h)
  · rcases step_signals hns h with hk | ⟨n, ts, hs, rfl⟩
    · exact ⟨hk.le, fun _ => hk⟩
    · exact ⟨(s.setSched ts).deliverToPartner_signals n, fun hno => absurd hs (hno n ts)⟩

end Sys2Proof.Machine
end

section
/-! PROOFS. READ's CMD write and its checks (`44_read.md` R127 to R136): the first register check that fails, the two
cursor loads, and the length field. -/

namespace Sys2Proof.Machine

variable {s : State} {race : BitVec 4} {a : Word}

/-! ### The CMD write -/

/-- An idle controller's READ on an open socket is its register checks. -/
theorem execRead_open (hf : s.fsm = .idle) (ho : s.status.isOpen = true) :
    exec .read s = .next (s.setLopc 0x7).readStart := by
  simp only [exec, execRead, State.atIdle_idle _ hf, State.withOpen_open _ _ ho]

theorem execRead_closed (hf : s.fsm = .idle) (ho : s.status.isOpen = false) :
    exec .read s = .next (s.rejected 0x7 .notOpen) := by
  simp only [exec, execRead, State.atIdle_idle _ hf, State.withOpen_closed _ _ ho, State.raise_setLopc _ _ hf]

/-- The checks do not depend on LOPC. -/
@[simp] theorem State.setLopc_readChecks (o : BitVec 4) (s : State) : (s.setLopc o).readChecks = s.readChecks := rfl

/-- The first check that fails ends READ in the step of its CMD write. -/
theorem execRead_rejected {d : Detail} (hf : s.fsm = .idle) (ho : s.status.isOpen = true)
    (hd : s.readChecks = some d) : exec .read s = .next (s.rejected 0x7 d) := by
  rw [execRead_open hf ho, State.readStart, State.setLopc_readChecks, hd, ← State.raise_setLopc _ _ hf]

/-- What a READ whose checks have passed starts from: EXEC, at the first primitive, with its CMD write recorded. -/
def State.readStarted (s : State) : State :=
  { s with
    status := { s.status with lopc := 0x7 }
    fsm := .exec
    neg := { s.neg with cmdWord := 0x00000007 }
    xfer := { s.xfer with cmd := .read, phase := .loadPeer, todo := [] }
    ghost := { s.ghost with
      cmdNo := s.ghost.cmdNo + 1
      trace := ⟨.host, s.ghost.cmdNo + 1, .cmdWrite, 0, [], false⟩ :: s.ghost.trace } }

theorem execRead_starts (hf : s.fsm = .idle) (ho : s.status.isOpen = true) (hd : s.readChecks = none) :
    exec .read s = .next s.readStarted := by
  rw [execRead_open hf ho, State.readStart, State.setLopc_readChecks, hd]
  rfl

/-- The register checks after OPEN, in the order of `44_read.md` R127. -/
theorem State.readChecks_eq (s : State) : s.readChecks =
    if s.status.rv = false then some .notNegotiated
    else if s.status.hwf = true then some .hwfLatched
    else if s.args.addr = 0 then some .nullAddr
    else none := by
  cases h : s.status.rv <;> simp only [State.readChecks, h] <;> rfl

/-- In the Ready state, with a destination address, every check passes, whatever LEN is. -/
theorem State.readChecks_pass (hrv : s.status.rv = true) (hhwf : s.status.hwf = false) (haddr : s.args.addr ≠ 0) :
    s.readChecks = none := by
  simp only [State.readChecks_eq, hrv, hhwf, haddr, reduceCtorEq, if_false]

/-- Settles O34: each clause is the first check that fails, and the last is `readChecks_pass`. -/
theorem readChecksInOrder : Obligations.ReadChecksInOrder := by
  unfold Obligations.ReadChecksInOrder
  refine fun s hf => ⟨execRead_closed hf, fun ho hrv => ?_, fun ho hrv hhwf => ?_, fun ho hrv hhwf =>
    ⟨fun haddr => ?_, fun haddr => ?_⟩⟩
  · exact execRead_rejected hf ho (by simp [State.readChecks_eq, hrv])
  · exact execRead_rejected hf ho (by simp [State.readChecks_eq, hrv, hhwf])
  · exact execRead_rejected hf ho (by simp [State.readChecks_eq, hrv, hhwf, haddr])
  · exact execRead_starts hf ho (State.readChecks_pass hrv hhwf haddr)

/-! ### A load of the running command -/

/-- In EXEC of a READ the controller's step is READ's. -/
theorem State.controllerTurn_read (c : CtlChoice) (hf : s.fsm = .exec) (hc : s.xfer.cmd = .read) :
    s.controllerTurn c = .next (s.readStep c) := by
  simp only [State.controllerTurn, hf, hc]

/-- The value READ's load of the word at `a` returns: the word in memory, but for its free bytes. -/
def State.remoteRead (race : BitVec 4) (a : Word) (s : State) : Word := s.wordRead a (s.cmdMarks s.remoteRing race a)

/-- The word's bytes are memory's where they do not race or lie in the destination buffer (`20_memory.md` R47, R53). -/
theorem State.remoteRead_eq (hrace : race = 0)
    (hbuf : ∀ k < 4, inRun s.args.addr s.args.len.toNat (a + BitVec.ofNat 32 k) = false) :
    s.remoteRead race a = s.mem.read32 a := by
  subst hrace
  exact State.wordRead_cmdMarks fun k hk => State.overlapped_of_not_buffer (hbuf k hk)

/-- The record after READ's load of the word at `a`. -/
def State.remoteRecorded (kind : EventKind) (race : BitVec 4) (a : Word) (s : State) : Ghost :=
  s.readRecorded kind a (s.cmdMarks s.remoteRing race a) (s.remoteRead race a) (s.cursorAccess kind a 4)

/-! ### The two cursor loads -/

/-- The first primitive keeps the value of remote.writeIndex and goes to the second. -/
theorem State.readLoadPeer_eq (race : BitVec 4) (s : State) : s.readLoadPeer race =
    { s with
      xfer := { s.xfer with w := s.remoteRead race s.rings.rbase, phase := .loadOwn }
      ghost := s.remoteRecorded .acqRead race s.rings.rbase } := by
  simp only [State.readLoadPeer, RingView.widxAddr_eq]
  rfl

/-- What READ's checks make of the loaded readIndex `r`, the record being `gh` then (`44_read.md` R130, R132). -/
def State.readLoaded (r : Word) (gh : Ghost) (s : State) : State :=
  if cursorOK r s.rings.rcap.toNat = true ∧ cursorOK s.xfer.w s.rings.rcap.toNat = true then
    if availData r.toNat s.xfer.w.toNat s.rings.rcap.toNat < 4 then
      { s with
        status := { s.status with err := .insufficientSpace, detail := .rdEmpty }
        fsm := .idle, xfer := { s.xfer with r := r }, ghost := gh }
    else { s with xfer := { s.xfer with r := r, phase := .loadLen }, ghost := gh }
  else
    { s with
      status := { s.status with hwf := true, err := .hardwareState, detail := .cursorInvalid }
      fsm := .idle, xfer := { s.xfer with r := r }, ghost := gh }

/-- An aligned position in an aligned ring has its length field before the end (`44_read.md` R133). -/
theorem not_straddles {r : Word} {cap : Nat} (hcap : cap % 16 = 0) (hr : cursorOK r cap = true) :
    ¬ cap < r.toNat + 4 := by
  obtain ⟨hlt, hal⟩ := (cursorOK_iff ..).1 hr
  omega

/-- The second primitive keeps the value of remote.readIndex and makes the cursor check and the empty test. -/
theorem State.readLoadOwn_eq (race : BitVec 4) (hcap : s.rings.rcap.toNat % 16 = 0) : s.readLoadOwn race =
    s.readLoaded (s.remoteRead race (s.rings.rbase + 4)) (s.remoteRecorded .plainRead race (s.rings.rbase + 4)) := by
  simp only [State.readLoadOwn, State.readLoaded, RingView.ridxAddr_eq, Bool.not_eq_true', ← Bool.not_eq_true,
    Bool.and_eq_true, ite_not]
  exact ite_congr rfl (fun hok => ite_congr rfl (fun _ => rfl) fun _ => if_neg (not_straddles hcap hok.1)) fun _ => rfl

theorem State.readStep_loadPeer {c : CtlChoice} (hp : s.xfer.phase = .loadPeer) (hb : c.busError = false) :
    s.readStep c = s.readLoadPeer c.race := by
  simp [State.readStep, hp, hb]

theorem State.readStep_loadOwn {c : CtlChoice} (hp : s.xfer.phase = .loadOwn) (hb : c.busError = false) :
    s.readStep c = s.readLoadOwn c.race := by
  simp [State.readStep, hp, hb]

theorem State.readStep_loadLen {c : CtlChoice} (hp : s.xfer.phase = .loadLen) (hb : c.busError = false) :
    s.readStep c = s.readLoadLen c.race := by
  simp [State.readStep, hp, hb]

/-- Settles O35: the two loads by their equations, and in a state of the invariant both words are the remote ring's. -/
theorem readTestsCursorsAndEmptiness : Obligations.ReadTestsCursorsAndEmptiness := by
  unfold Obligations.ReadTestsCursorsAndEmptiness
  intro s ch hf hc hb
  refine ⟨fun hi => ?_, fun hp => ⟨s.remoteRead ch.race s.rings.rbase, State.remoteRead_eq, ?_⟩,
    fun hp hcap => ⟨s.remoteRead ch.race (s.rings.rbase + 4), State.remoteRead_eq, ?_⟩⟩
  · obtain ⟨_, hrv, _⟩ := hi.socket.execReady hf
    exact ⟨State.cursorAccess_rings (k := .acqRead) hi.socket hrv nofun (.inr rfl) (.inl rfl),
      State.cursorAccess_rings (k := .plainRead) hi.socket hrv nofun (.inr rfl) (.inr rfl)⟩
  · rw [State.controllerTurn_read ch hf hc, State.readStep_loadPeer hp hb, State.readLoadPeer_eq]
    rfl
  · rw [State.controllerTurn_read ch hf hc, State.readStep_loadOwn hp hb, State.readLoadOwn_eq _ hcap]
    rfl

/-! ### The length field -/

/-- The address of the length field: the block's first byte, at ring position `r`. -/
def State.lenAddr (s : State) : Word := addr32 (s.rings.rbase.toNat + s.cfg.rbHdrSize + s.xfer.r.toNat)

/-- What READ's checks make of the loaded length field `l`, the record being `gh` then (`44_read.md` R135, R136). -/
def State.readMeasured (l : Word) (gh : Ghost) (s : State) : State :=
  if availData s.xfer.r.toNat s.xfer.w.toNat s.rings.rcap.toNat < l.toNat + 4 ∨ l.toNat < 20 then
    { s with
      status := { s.status with err := .insufficientSpace, detail := .rdBadLength }
      fsm := .idle, xfer := { s.xfer with len := l }, ghost := gh }
  else if s.args.len.toNat < l.toNat - 20 then
    { s with
      status := { s.status with err := .insufficientSpace, detail := .rdDstTooSmall }
      fsm := .idle, xfer := { s.xfer with len := l }, ghost := gh }
  else
    { s with
      xfer := { s.xfer with
        len := l, phase := .data
        todo := State.readPlan { s with xfer := { s.xfer with len := l } }
        pos := (s.xfer.r.toNat + (4 + l.toNat)) % s.rings.rcap.toNat }
      ghost := gh }

/-- The third primitive keeps the length field and makes the two checks. -/
theorem State.readLoadLen_eq (race : BitVec 4) (s : State) : s.readLoadLen race =
    s.readMeasured (s.remoteRead race s.lenAddr) (s.remoteRecorded .lenRead race s.lenAddr) := by
  simp only [State.readLoadLen, State.readMeasured, Bool.or_eq_true, decide_eq_true_eq]
  rfl

/-- A read of the length field is no cursor access (`20_memory.md` R42). -/
theorem State.cursorAccess_lenRead (s : State) (a : Word) (n : Nat) : s.cursorAccess .lenRead a n = false := by
  simp [State.cursorAccess]

/-- Settles O36: the load and its checks by their equation. -/
theorem readTestsTheLengthField : Obligations.ReadTestsTheLengthField := by
  unfold Obligations.ReadTestsTheLengthField
  intro s ch hf hc hp hb
  refine ⟨s.remoteRead ch.race s.lenAddr, State.remoteRead_eq, ?_⟩
  rw [State.controllerTurn_read ch hf hc, State.readStep_loadLen hp hb, State.readLoadLen_eq, State.remoteRecorded,
    State.cursorAccess_lenRead]
  rfl

end Sys2Proof.Machine
end

section
/-! PROOFS. READ's data accesses in any order (`20_memory.md` R42, R50; `44_read.md` R137): beside the copies, which bring
memory to one outcome as WRITE's accesses do, each read of a header byte brings its id byte to that byte. -/

namespace Sys2Proof.Machine

variable {s t u : State} {c : CtlChoice} {es fs : List Event} {todo : List DataOp} {op : DataOp} {i k : Nat}
  {m n : Mem} {src : Nat → Word} {ident : IdRegs} {a : Word}

/-! ### The accesses that write -/

/-- The access writes a byte, now or after its read; only a header read does not. -/
def DataOp.writes (op : DataOp) : Bool := op.target.isSome

theorem pendingAt_filter_writes : PendingAt (todo.filter DataOp.writes) a ↔ PendingAt todo a := by
  simp only [PendingAt, List.mem_filter, and_assoc]
  refine exists_congr fun op => and_congr_right fun _ => and_iff_right_of_imp fun h => ?_
  rw [DataOp.writes, h]
  rfl

/-- The order of the pending accesses does not matter. -/
theorem Filling.perm {todo' : List DataOp} (h : Filling n m todo) (hp : todo.Perm todo') : Filling n m todo' := by
  have hpending : ∀ a, PendingAt todo' a ↔ PendingAt todo a := fun a => by simp only [PendingAt, hp.mem_iff]
  exact ⟨h.wf, fun op hop => h.brings op (hp.mem_iff.2 hop), fun a ha => h.settled a (ha ∘ (hpending a).2),
    fun src dst o o' hop ha => h.sources src dst o o' (hp.mem_iff.2 hop) ((hpending src).1 ha)⟩

/-- A pending access that writes has a place among those that write, and leaves the same others there. -/
theorem exists_filter_writes_eraseIdx (hi : todo[i]? = some op) (hw : op.writes = true) :
    ∃ j, (todo.filter DataOp.writes)[j]? = some op ∧
      ((todo.filter DataOp.writes).eraseIdx j).Perm ((todo.eraseIdx i).filter DataOp.writes) := by
  obtain ⟨hlt, rfl⟩ := List.getElem?_eq_some_iff.1 hi
  obtain ⟨j, hj, hop⟩ := List.getElem_of_mem (List.mem_filter.2 ⟨List.mem_of_getElem? hi, hw⟩)
  refine ⟨j, List.getElem?_eq_some_iff.2 ⟨hj, hop⟩, (List.perm_cons todo[i]).1 ?_⟩
  have hall := (List.getElem_cons_eraseIdx_perm hlt).filter DataOp.writes
  rw [List.filter_cons_of_pos hw] at hall
  exact (hop ▸ List.getElem_cons_eraseIdx_perm hj).trans hall.symm

/-- A write at any place of the list settles its byte, whatever header reads are pending. -/
theorem Filling.filter_put {dst : Word} {b : Byte} {o : Bool} (h : Filling n m (todo.filter DataOp.writes))
    (hi : todo[i]? = some (.put dst b o)) : Filling n (m.write8 dst b) ((todo.eraseIdx i).filter DataOp.writes) := by
  obtain ⟨j, hj, hperm⟩ := exists_filter_writes_eraseIdx hi rfl
  exact (h.put hj).perm hperm

/-- A copy's read turns it into its write, whatever header reads are pending. -/
theorem Filling.filter_copy {a dst : Word} {o o' : Bool} (h : Filling n m (todo.filter DataOp.writes))
    (hi : todo[i]? = some (.copy a dst o o')) :
    Filling n m ((todo.set i (.put dst (m.read8 a) o')).filter DataOp.writes) := by
  obtain ⟨j, hj, hperm⟩ := exists_filter_writes_eraseIdx hi rfl
  refine (h.copy hj).perm ?_
  have hset := (List.set_perm_cons_eraseIdx (List.getElem?_eq_some_iff.1 hi).1 (.put dst (m.read8 a) o')).filter
    DataOp.writes
  rw [List.filter_cons_of_pos rfl] at hset
  exact ((List.set_perm_cons_eraseIdx (List.getElem?_eq_some_iff.1 hj).1 _).trans (hperm.cons _)).trans hset.symm

/-- A header read leaves the accesses that write. -/
theorem Filling.filter_header {o : Bool} (h : Filling n m (todo.filter DataOp.writes))
    (hi : todo[i]? = some (.header a k o)) : Filling n m ((todo.eraseIdx i).filter DataOp.writes) := by
  have hall := (List.getElem_cons_eraseIdx_perm (List.getElem?_eq_some_iff.1 hi).1).filter DataOp.writes
  rw [(List.getElem?_eq_some_iff.1 hi).2, List.filter_cons_of_neg (by simp [DataOp.writes, DataOp.target])] at hall
  exact h.perm hall.symm

/-! ### What the accesses bring memory and the id to -/

/-- Memory `m` becomes `n` by the pending accesses in any order, and id byte `k` becomes `n`'s byte at `src k`: it is that
already or its header read is pending, and memory has that byte there from the start. -/
structure Gathering (n : Mem) (src : Nat → Word) (m : Mem) (todo : List DataOp) (ident : IdRegs) : Prop where
  filling : Filling n m (todo.filter DataOp.writes)
  headers : ∀ op ∈ todo, op.writes = false → ∃ k, op = .header (src k) k false
  there : ∀ k, m.read8 (src k) = n.read8 (src k)
  gathered : ∀ k < 16, .header (src k) k false ∈ todo ∨ ident.byte k = n.read8 (src k)

/-- An access that writes leaves the pending header reads. -/
theorem header_mem_eraseIdx (hi : todo[i]? = some op) (hw : op.writes = true) (h : .header a k false ∈ todo) :
    .header a k false ∈ todo.eraseIdx i := by
  refine ((mem_iff_eraseIdx hi).1 h).resolve_left ?_
  rintro rfl
  cases hw

theorem Gathering.put {dst : Word} {b : Byte} {o : Bool} (h : Gathering n src m todo ident)
    (hi : todo[i]? = some (.put dst b o)) : Gathering n src (m.write8 dst b) (todo.eraseIdx i) ident where
  filling := h.filling.filter_put hi
  headers op hop := h.headers op (List.mem_of_mem_eraseIdx hop)
  there k := by
    rw [Mem.read8_write8 h.filling.wf]
    split
    · next hk =>
      cases h.filling.brings _ (List.mem_filter.2 ⟨List.mem_of_getElem? hi, rfl⟩)
      rw [hk]
    · exact h.there k
  gathered k hk := (h.gathered k hk).imp_left (header_mem_eraseIdx hi rfl)

theorem Gathering.copy {a dst : Word} {o o' : Bool} (h : Gathering n src m todo ident)
    (hi : todo[i]? = some (.copy a dst o o')) :
    Gathering n src m (todo.set i (.put dst (m.read8 a) o')) ident where
  filling := h.filling.filter_copy hi
  headers op hop hw := by
    rcases (mem_set_iff_eraseIdx hi _).1 hop with rfl | hop
    · cases hw
    · exact h.headers op (List.mem_of_mem_eraseIdx hop) hw
  there := h.there
  gathered k hk := (h.gathered k hk).imp_left fun hmem =>
    (mem_set_iff_eraseIdx hi _).2 (.inr (header_mem_eraseIdx hi rfl hmem))

/-- A header read keeps its byte, if it is one of the id. -/
theorem Gathering.header (h : Gathering n src m todo ident) (hi : todo[i]? = some (.header (src k) k false)) :
    Gathering n src m (todo.eraseIdx i) (if k < 16 then ident.setByte k (m.read8 (src k)) else ident) where
  filling := h.filling.filter_header hi
  headers op hop := h.headers op (List.mem_of_mem_eraseIdx hop)
  there := h.there
  gathered j hj := by
    by_cases hjk : j = k
    · subst hjk
      rw [if_pos hj, IdRegs.byte_setByte _ _ _ _ hj hj, if_pos rfl]
      exact .inr (h.there j)
    · have hkeep : (if k < 16 then ident.setByte k (m.read8 (src k)) else ident).byte j = ident.byte j := by
        split
        · next hk => rw [IdRegs.byte_setByte _ _ _ _ hj hk, if_neg hjk]
        · rfl
      rw [hkeep]
      refine (h.gathered j hj).imp_left fun hmem => ((mem_iff_eraseIdx hi).1 hmem).resolve_left fun heq => ?_
      exact hjk (DataOp.header.inj heq).2.1

/-- With none pending, memory is `n` and the id is gathered. -/
theorem Gathering.done (h : Gathering n src m [] ident) :
    (∀ a, m.read8 a = n.read8 a) ∧ ∀ k < 16, ident.byte k = n.read8 (src k) :=
  ⟨h.filling.done, fun k hk => (h.gathered k hk).resolve_left nofun⟩

/-! ### The steps -/

/-- `t` is `s` after READ's data accesses `es`, newest first: memory, the pending accesses, the gathered id and the record
alone differ. -/
def Gathered (s t : State) (es : List Event) : Prop :=
  ∃ ident, Accessed { s with xfer := { s.xfer with ident := ident } } t es

theorem Accessed.gathered (h : Accessed s t es) : Gathered s t es := ⟨s.xfer.ident, h⟩

theorem Gathered.trans (h : Gathered s t es) (h' : Gathered t u fs) : Gathered s u (fs ++ es) := by
  obtain ⟨_, hes, m, todo, p, d, rfl⟩ := h
  obtain ⟨ident, hfs, hu⟩ := h'
  have ht : Accessed { s with xfer := { s.xfer with ident := ident } }
      { s with
        mem := m
        xfer := { s.xfer with todo := todo, phase := p, ident := ident }
        ghost := { s.ghost with draws := d, trace := es ++ s.ghost.trace } } es := ⟨hes, m, todo, p, d, rfl⟩
  exact ⟨ident, ht.trans ⟨hfs, hu⟩⟩

theorem Gathered.fsm (h : Gathered s t es) : t.fsm = s.fsm := by
  obtain ⟨_, _, _, _, _, _, rfl⟩ := h
  rfl

theorem State.performOp_header_gathered (i : Nat) (a : Word) (k : Nat) (s : State) :
    Gathered s (s.performOp false i (.header a k false))
      [⟨.controller, s.ghost.cmdNo, .plainRead, a, [⟨s.mem.read8 a, Mark.clear⟩], s.cursorAccess .plainRead a 1⟩] :=
  ⟨_, fun _ he => List.mem_singleton.1 he ▸ isDataAccess_byte (.inl rfl) s a _, _, _, _, _, rfl⟩

/-- One data access of a READ, whichever is picked. -/
theorem State.dataStep_gathering (hc : c.clean) (h : Gathering n src s.mem s.xfer.todo s.xfer.ident)
    (hne : s.xfer.todo ≠ []) :
    ∃ e, Gathered s (s.dataStep c) [e] ∧
      Gathering n src (s.dataStep c).mem (s.dataStep c).xfer.todo (s.dataStep c).xfer.ident ∧
      stepsOf (s.dataStep c).xfer.todo + 1 = stepsOf s.xfer.todo ∧
      (s.dataStep c).xfer.phase = .ofTodo (s.dataStep c).xfer.todo := by
  obtain ⟨hb, _, hrace⟩ := hc
  obtain ⟨i, op, _, hget, heq⟩ := State.dataStep_cases c hne
  have hmem := List.mem_of_getElem? hget
  rw [heq, hb, hrace, if_neg Bool.false_ne_true, show (0 : BitVec 4).getLsbD 0 = false from rfl]
  cases op with
  | put dst b o =>
    cases h.filling.brings _ (List.mem_filter.2 ⟨hmem, rfl⟩)
    exact ⟨_, (s.performOp_put_accessed i dst _).gathered, h.put hget, stepsOf_eraseIdx hget, rfl⟩
  | copy a dst o o' =>
    cases h.filling.brings _ (List.mem_filter.2 ⟨hmem, rfl⟩)
    refine ⟨_, (s.performOp_copy_accessed i a dst false).gathered, h.copy hget, ?_, rfl⟩
    have hsteps := stepsOf_set (.put dst (s.mem.read8 a) false) hget
    exact Nat.add_right_cancel (m := 1) hsteps
  | header a k o =>
    obtain ⟨_, ⟨⟩⟩ := h.headers _ hmem rfl
    exact ⟨_, s.performOp_header_gathered i (src k) k, h.header hget, stepsOf_eraseIdx hget, rfl⟩

/-- READ's data phase as a whole: as many clean steps as the pending accesses take bring memory to `n`, the id to its
bytes and the command to its publish, in every order. -/
theorem runChoices_gathering {cs : List CtlChoice} (hf : s.fsm = .exec) (hp : s.xfer.phase = .ofTodo s.xfer.todo)
    (h : Gathering n src s.mem s.xfer.todo s.xfer.ident) (hc : ∀ c ∈ cs, c.clean)
    (hlen : cs.length = stepsOf s.xfer.todo) :
    ∃ t es, runChoices cs s = .next t ∧ Gathered s t es ∧ es.length = cs.length ∧ t.xfer.phase = .publish ∧
      Gathering n src t.mem [] t.xfer.ident := by
  induction cs generalizing s with
  | nil =>
    have htodo := stepsOf_eq_zero.1 hlen.symm
    rw [htodo] at hp h
    exact ⟨s, [], rfl, (Accessed.refl s).gathered, rfl, hp, h⟩
  | cons c cs ih =>
    have hne : s.xfer.todo ≠ [] := fun hnil => by simp [hnil, stepsOf] at hlen
    have hdata : s.xfer.phase = .data := by simpa [Phase.ofTodo, hne] using hp
    obtain ⟨hclean, hrest⟩ := List.forall_mem_cons.1 hc
    obtain ⟨e, hacc, hnext, hsteps, hphase⟩ := State.dataStep_gathering hclean h hne
    have hlen' : cs.length = stepsOf (s.dataStep c).xfer.todo := by
      simp only [List.length_cons] at hlen
      omega
    obtain ⟨t, es, hrun, hacc', heslen, hpub, hdone⟩ := ih (hacc.fsm.trans hf) hphase hnext hrest hlen'
    refine ⟨t, es ++ [e], ?_, hacc.trans hacc', by simp [heslen], hpub, hdone⟩
    rw [runChoices_cons cs (State.controllerTurn_data c hf hdata), hrun]

end Sys2Proof.Machine
end

section
/-! PROOFS. The whole of READ (`44_read.md` R127 to R140): its data accesses bring the payload to the destination and the
sender id to the controller, in every order, and then the cursor is published and the signal sent. -/

namespace Sys2Proof.Machine

variable {s : State} {c : CtlChoice} {kind : EventKind} {race : BitVec 4} {a : Word} {k i : Nat}

/-! ### The message -/

/-- The word at remote.writeIndex. -/
def State.remoteWidx (s : State) : Word := s.mem.read32 s.rings.rbase

/-- The word at remote.readIndex. -/
def State.remoteRidx (s : State) : Word := s.mem.read32 (s.rings.rbase + 4)

/-- The address of byte `i` of the block at remote.readIndex (`44_read.md` R137). -/
def State.msgAddr (i : Nat) (s : State) : Word := s.remoteRing.byteAddr s.cfg.rbHdrSize s.remoteRidx.toNat i

/-- The block's length field L (`44_read.md` R134). -/
def State.msgLen (s : State) : Word := s.mem.read32 (s.remoteRing.dataAddr s.cfg.rbHdrSize s.remoteRidx.toNat)

/-- The payload in the ring (`44_read.md` R137). -/
def State.msgPayload (s : State) : List Byte :=
  (List.range (s.msgLen.toNat - 20)).map fun i => s.mem.read8 (s.msgAddr (24 + i))

/-- Memory after READ's data accesses: the payload at the destination. -/
def State.delivered (s : State) : Mem := s.mem.writeBytes s.args.addr s.msgPayload

/-- The data accesses of a READ of that message. -/
def State.msgPlan (s : State) : List DataOp :=
  State.readPlan { s with xfer := { s.xfer with r := s.remoteRidx, len := s.msgLen } }

theorem State.msgPlan_ne_nil (s : State) : s.msgPlan ≠ [] := State.readPlan_ne_nil _

theorem State.msgPlan_steps (s : State) : stepsOf s.msgPlan = 20 + 2 * (s.msgLen.toNat - 20) := by
  rw [State.msgPlan, State.readPlan_steps]
  rfl

/-- The record after a load of the word at `a` without race or overlap. -/
def State.wordLoaded (kind : EventKind) (a : Word) (cursor : Bool) (s : State) : Ghost :=
  { s.ghost with
    draws := s.ghost.draws + 4
    trace := wordEvent s.ghost.cmdNo kind a (s.mem.read32 a) cursor :: s.ghost.trace }

/-- A READ at its length field, its cursor loads made and their checks passed. -/
def State.readAtLength (s : State) : State :=
  let n := s.ghost.cmdNo + 1
  { s.readStarted with
    xfer := { s.xfer with
      cmd := .read, phase := .loadLen, r := s.remoteRidx, w := s.remoteWidx, todo := [] }
    ghost := { s.ghost with
      cmdNo := n
      draws := s.ghost.draws + 4 + 4
      trace :=
        wordEvent n .plainRead (s.rings.rbase + 4) s.remoteRidx true ::
        wordEvent n .acqRead s.rings.rbase s.remoteWidx true ::
        ⟨.host, n, .cmdWrite, 0, [], false⟩ :: s.ghost.trace } }

/-- A READ at the first of its data accesses, its checks passed. -/
def State.readChecked (s : State) : State :=
  { s.readAtLength with
    xfer := { s.readAtLength.xfer with
      phase := .data, len := s.msgLen, todo := s.msgPlan
      pos := (s.remoteRidx.toNat + (4 + s.msgLen.toNat)) % s.remoteRing.cap }
    ghost := s.readAtLength.wordLoaded .lenRead (s.remoteRing.dataAddr s.cfg.rbHdrSize s.remoteRidx.toNat) false }

/-- A READ whose checks will pass, with a destination buffer that shares no byte with the remote ring (`44_read.md` R128,
R130, R132, R135, R136; `20_memory.md` R47). -/
structure ReadAdmitted (s : State) : Prop where
  inv : MachineInv s
  idle : s.fsm = .idle
  isOpen : s.status.isOpen = true
  rv : s.status.rv = true
  hwf : s.status.hwf = false
  addr : s.args.addr ≠ 0
  rOk : cursorOK s.remoteRidx s.remoteRing.cap = true
  wOk : cursorOK s.remoteWidx s.remoteRing.cap = true
  avail : s.msgLen.toNat + 4 ≤ availData s.remoteRidx.toNat s.remoteWidx.toNat s.remoteRing.cap
  lenLeast : 20 ≤ s.msgLen.toNat
  dstFits : s.msgLen.toNat - 20 ≤ s.args.len.toNat
  apart : ∀ i < s.args.len.toNat, ∀ k < s.cfg.rbHdrSize + s.remoteRing.cap,
    s.args.addr + BitVec.ofNat 32 i ≠ s.rings.rbase + BitVec.ofNat 32 k

namespace ReadAdmitted

/-- No byte of the command's accesses is in an overlap. -/
theorem overlapped (h : ReadAdmitted s) (a : Word) : s.overlapped s.remoteRing a = false :=
  State.overlapped_false h.apart a

/-- The remote ring is there, and its capacity is aligned (`10_state.md` R23). -/
theorem ring (h : ReadAdmitted s) : 0 < s.remoteRing.cap ∧ s.remoteRing.cap % 16 = 0 := by
  obtain ⟨_, _, hpos, hal, _, _⟩ := h.inv.socket.remoteOk h.rv
  exact ⟨hpos, hal⟩

/-- The remote ring's cursor words are cursor words of the run. -/
theorem cursorAccess (h : ReadAdmitted s) (hk : kind ≠ .lenRead) (ha : a = s.rings.rbase ∨ a = s.rings.rbase + 4) :
    s.cursorAccess kind a 4 = true :=
  State.cursorAccess_rings h.inv.socket h.rv hk (.inr rfl) ha

/-- No byte of the destination is a byte of the block. -/
theorem dst_ne (h : ReadAdmitted s) (hi : i < s.msgLen.toNat - 20) (k : Nat) :
    s.msgAddr k ≠ s.args.addr + BitVec.ofNat 32 i := by
  rw [State.msgAddr, RingView.byteAddr_eq]
  exact (h.apart i (hi.trans_le h.dstFits) _ (Nat.add_lt_add_left (Nat.mod_lt _ h.ring.1) _)).symm

/-- No byte of the destination is a byte of the cursor word. -/
theorem dst_ne_cursor (h : ReadAdmitted s) (hi : i < s.msgLen.toNat - 20) (hk : k < 4) :
    s.args.addr + BitVec.ofNat 32 i ≠ s.rings.rbase + 4 + BitVec.ofNat 32 k := by
  have hleast := h.inv.cfg.hdrLeast
  have hne := h.apart i (hi.trans_le h.dstFits) (4 + k) (by omega)
  rwa [BitVec.ofNat_add, ← BitVec.add_assoc] at hne

theorem read8_payload (h : ReadAdmitted s) (hi : i < s.msgLen.toNat - 20) :
    s.delivered.read8 (s.args.addr + BitVec.ofNat 32 i) = s.mem.read8 (s.msgAddr (24 + i)) := by
  have hlen : s.msgPayload.length ≤ 2 ^ 32 := by
    simp only [State.msgPayload, List.length_map, List.length_range]
    omega
  exact Mem.read8_writeBytes_at h.inv.mem hlen (by simp [State.msgPayload, hi]) _

theorem read8_outside (h : ReadAdmitted s) (ha : ∀ i < s.msgLen.toNat - 20, a ≠ s.args.addr + BitVec.ofNat 32 i) :
    s.delivered.read8 a = s.mem.read8 a :=
  Mem.read8_writeBytes_of_not_inRun h.inv.mem _ _ _ (by simpa [State.msgPayload] using ha)

/-- READ's data accesses are the reads of the header bytes and the copies of the payload bytes, none in an overlap. -/
theorem plan_eq (h : ReadAdmitted s) : s.msgPlan =
    (List.range 20).map (fun k => .header (s.msgAddr (4 + k)) k false) ++
      (List.range (s.msgLen.toNat - 20)).map
        fun i => .copy (s.msgAddr (24 + i)) (s.args.addr + BitVec.ofNat 32 i) false false :=
  congrArg₂ (· ++ ·) (List.map_congr_left fun k _ => congrArg (DataOp.header _ k) (h.overlapped _))
    (List.map_congr_left fun _ _ => congrArg₂ (DataOp.copy _ _) (h.overlapped _) (h.overlapped _))

theorem mem_plan (h : ReadAdmitted s) {op : DataOp} : op ∈ s.msgPlan ↔
    (∃ k < 20, op = .header (s.msgAddr (4 + k)) k false) ∨
      ∃ i < s.msgLen.toNat - 20, op = .copy (s.msgAddr (24 + i)) (s.args.addr + BitVec.ofNat 32 i) false false := by
  simp only [h.plan_eq, List.mem_append, List.mem_map, List.mem_range, eq_comm]

theorem pendingAt_plan (h : ReadAdmitted s) : PendingAt s.msgPlan a ↔
    ∃ i < s.msgLen.toNat - 20, a = s.args.addr + BitVec.ofNat 32 i := by
  simp only [PendingAt, h.mem_plan]
  constructor
  · rintro ⟨_, ⟨k, _, rfl⟩ | ⟨i, hi, rfl⟩, htarget⟩
    · cases htarget
    · exact ⟨i, hi, (Option.some.inj htarget).symm⟩
  · rintro ⟨i, hi, rfl⟩
    exact ⟨_, .inr ⟨i, hi, rfl⟩, rfl⟩

/-- In every order READ's data accesses bring memory to the delivered payload and the id to the sender's
(`20_memory.md` R42). -/
theorem gathering (h : ReadAdmitted s) :
    Gathering s.delivered (fun k => s.msgAddr (4 + k)) s.mem s.msgPlan s.xfer.ident where
  filling :=
    { wf := h.inv.mem
      brings := fun op hop => by
        obtain ⟨hop, hw⟩ := List.mem_filter.1 hop
        rcases h.mem_plan.1 hop with ⟨k, _, rfl⟩ | ⟨i, hi, rfl⟩
        · cases hw
        · refine .copy ?_
          rw [h.read8_payload hi, h.read8_outside fun j hj => h.dst_ne hj _]
      settled := fun a ha => by
        rw [pendingAt_filter_writes, h.pendingAt_plan] at ha
        exact (h.read8_outside fun i hi heq => ha ⟨i, hi, heq⟩).symm
      sources := fun src dst o o' hop => by
        rw [pendingAt_filter_writes, h.pendingAt_plan]
        rintro ⟨i, hi, rfl⟩
        rcases h.mem_plan.1 (List.mem_of_mem_filter hop) with ⟨_, _, hcopy⟩ | ⟨j, _, hcopy⟩
        · cases hcopy
        · exact h.dst_ne hi _ (DataOp.copy.inj hcopy).1.symm }
  headers op hop hw := by
    rcases h.mem_plan.1 hop with ⟨k, _, rfl⟩ | ⟨i, _, rfl⟩
    · exact ⟨k, rfl⟩
    · cases hw
  there k := (h.read8_outside fun i hi => h.dst_ne hi _).symm
  gathered k hk := .inl (h.mem_plan.2 (.inl ⟨k, by omega, rfl⟩))

end ReadAdmitted

/-! ### The loads -/

/-- A load without race or overlap returns memory's word. -/
theorem State.remoteRead_clear (hrace : race = 0) (hov : ∀ a, s.overlapped s.remoteRing a = false) (a : Word) :
    s.remoteRead race a = s.mem.read32 a := by
  subst hrace
  exact State.wordRead_cmdMarks fun _ _ => hov _

theorem State.remoteRecorded_clear (hrace : race = 0) (hov : ∀ a, s.overlapped s.remoteRing a = false)
    (kind : EventKind) (a : Word) :
    s.remoteRecorded kind race a = s.wordLoaded kind a (s.cursorAccess kind a 4) := by
  rw [State.remoteRecorded, State.remoteRead_clear hrace hov, hrace, State.readRecorded,
    State.wordBytes_cmdMarks fun _ _ => hov _]
  rfl

/-- The first primitive, with no race and no overlap. -/
theorem State.controllerTurn_readPeer (hf : s.fsm = .exec) (hcmd : s.xfer.cmd = .read) (hp : s.xfer.phase = .loadPeer)
    (hc : c.clean) (hov : ∀ a, s.overlapped s.remoteRing a = false)
    (hcur : s.cursorAccess .acqRead s.rings.rbase 4 = true) :
    s.controllerTurn c = .next
      { s with
        xfer := { s.xfer with w := s.remoteWidx, phase := .loadOwn }
        ghost := s.wordLoaded .acqRead s.rings.rbase true } := by
  obtain ⟨hb, _, hrace⟩ := hc
  rw [State.controllerTurn_read c hf hcmd, State.readStep_loadPeer hp hb, State.readLoadPeer_eq,
    State.remoteRecorded_clear hrace hov, State.remoteRead_clear hrace hov, hcur]
  rfl

/-- With cursors that pass `cursorOK` and a length field to read, both checks pass. -/
theorem State.readLoaded_pass {r : Word} (gh : Ghost) (hr : cursorOK r s.rings.rcap.toNat = true)
    (hw : cursorOK s.xfer.w s.rings.rcap.toNat = true)
    (havail : 4 ≤ availData r.toNat s.xfer.w.toNat s.rings.rcap.toNat) :
    s.readLoaded r gh = { s with xfer := { s.xfer with r := r, phase := .loadLen }, ghost := gh } := by
  rw [State.readLoaded, if_pos ⟨hr, hw⟩, if_neg (by omega)]

/-- The second primitive, with no race and no overlap, where the checks pass. -/
theorem State.controllerTurn_readOwn (hf : s.fsm = .exec) (hcmd : s.xfer.cmd = .read) (hp : s.xfer.phase = .loadOwn)
    (hc : c.clean) (hov : ∀ a, s.overlapped s.remoteRing a = false)
    (hcur : s.cursorAccess .plainRead (s.rings.rbase + 4) 4 = true) (hcap : s.rings.rcap.toNat % 16 = 0)
    (hr : cursorOK s.remoteRidx s.rings.rcap.toNat = true) (hw : cursorOK s.xfer.w s.rings.rcap.toNat = true)
    (havail : 4 ≤ availData s.remoteRidx.toNat s.xfer.w.toNat s.rings.rcap.toNat) :
    s.controllerTurn c = .next
      { s with
        xfer := { s.xfer with r := s.remoteRidx, phase := .loadLen }
        ghost := s.wordLoaded .plainRead (s.rings.rbase + 4) true } := by
  obtain ⟨hb, _, hrace⟩ := hc
  rw [State.controllerTurn_read c hf hcmd, State.readStep_loadOwn hp hb, State.readLoadOwn_eq _ hcap,
    State.remoteRecorded_clear hrace hov, State.remoteRead_clear hrace hov, hcur]
  exact congrArg _ (State.readLoaded_pass _ hr hw havail)

/-- With a length field in its range and a payload that fits the destination, both checks pass. -/
theorem State.readMeasured_pass {l : Word} (gh : Ghost)
    (havail : l.toNat + 4 ≤ availData s.xfer.r.toNat s.xfer.w.toNat s.rings.rcap.toNat) (hleast : 20 ≤ l.toNat)
    (hfits : l.toNat - 20 ≤ s.args.len.toNat) :
    s.readMeasured l gh =
      { s with
        xfer := { s.xfer with
          len := l, phase := .data
          todo := State.readPlan { s with xfer := { s.xfer with len := l } }
          pos := (s.xfer.r.toNat + (4 + l.toNat)) % s.rings.rcap.toNat }
        ghost := gh } := by
  rw [State.readMeasured, if_neg (by omega), if_neg (by omega)]

/-- The third primitive, with no race and no overlap, where the checks pass. -/
theorem State.controllerTurn_readLen (hf : s.fsm = .exec) (hcmd : s.xfer.cmd = .read) (hp : s.xfer.phase = .loadLen)
    (hc : c.clean) (hov : ∀ a, s.overlapped s.remoteRing a = false)
    (havail : (s.mem.read32 s.lenAddr).toNat + 4 ≤ availData s.xfer.r.toNat s.xfer.w.toNat s.rings.rcap.toNat)
    (hleast : 20 ≤ (s.mem.read32 s.lenAddr).toNat)
    (hfits : (s.mem.read32 s.lenAddr).toNat - 20 ≤ s.args.len.toNat) :
    s.controllerTurn c = .next
      { s with
        xfer := { s.xfer with
          len := s.mem.read32 s.lenAddr, phase := .data
          todo := State.readPlan { s with xfer := { s.xfer with len := s.mem.read32 s.lenAddr } }
          pos := (s.xfer.r.toNat + (4 + (s.mem.read32 s.lenAddr).toNat)) % s.rings.rcap.toNat }
        ghost := s.wordLoaded .lenRead s.lenAddr false } := by
  obtain ⟨hb, _, hrace⟩ := hc
  rw [State.controllerTurn_read c hf hcmd, State.readStep_loadLen hp hb, State.readLoadLen_eq,
    State.remoteRecorded_clear hrace hov, State.remoteRead_clear hrace hov, State.cursorAccess_lenRead,
    State.readMeasured_pass _ havail hleast hfits]

/-- The two cursor loads and the checks after them. -/
theorem ReadAdmitted.runChoices_cursors (h : ReadAdmitted s) {c₁ c₂ : CtlChoice} (h₁ : c₁.clean) (h₂ : c₂.clean)
    (cs : List CtlChoice) : runChoices (c₁ :: c₂ :: cs) s.readStarted = runChoices cs s.readAtLength := by
  have hpeer := State.controllerTurn_readPeer (s := s.readStarted) rfl rfl rfl h₁ h.overlapped
    (h.cursorAccess (kind := .acqRead) nofun (.inl rfl))
  have hown := h.cursorAccess (kind := .plainRead) nofun (.inr rfl)
  have havail : 4 ≤ availData s.remoteRidx.toNat s.remoteWidx.toNat s.remoteRing.cap :=
    (Nat.le_add_left ..).trans h.avail
  refine (runChoices_cons _ hpeer).trans ?_
  exact runChoices_cons cs
    (State.controllerTurn_readOwn rfl rfl rfl h₂ h.overlapped hown h.ring.2 h.rOk h.wOk havail)

/-- The load of the length field and the checks after it. -/
theorem ReadAdmitted.controllerTurn_length (h : ReadAdmitted s) (hc : c.clean) :
    s.readAtLength.controllerTurn c = .next s.readChecked :=
  State.controllerTurn_readLen rfl rfl rfl hc h.overlapped h.avail h.lenLeast h.dstFits

/-! ### The publish and the signal -/

/-- What the publish of `v`, the signal and the completion make of a READ (`44_read.md` R139, R140). -/
def State.readFinished (v : Word) (s : State) : State :=
  { s with
    status := { s.status with err := .ok, detail := .none }
    results := { rid := s.xfer.ident, rlen := BitVec.ofNat 32 s.readPayloadLen }
    fsm := .idle
    xfer := { s.xfer with phase := .signal }
    mem := s.mem.writeBytes (s.rings.rbase + 4) (le32 v)
    mbx := { s.mbx with sigToPartner := s.mbx.sigToPartner + 1 }
    ghost := { s.ghost with
      draws := s.ghost.draws + 4
      trace :=
        ⟨.controller, s.ghost.cmdNo, .signal, 0, [], false⟩ ::
        wordEvent s.ghost.cmdNo .relWrite (s.rings.rbase + 4) v
          (s.cursorAccess .relWrite (s.rings.rbase + 4) 4) ::
        s.ghost.trace } }

/-- The publish, with no race and no overlap. -/
theorem State.controllerTurn_readPublish (hf : s.fsm = .exec) (hcmd : s.xfer.cmd = .read)
    (hp : s.xfer.phase = .publish) (hc : c.clean) (hov : ∀ a, s.overlapped s.remoteRing a = false) :
    s.controllerTurn c = .next
      ((s.storeBytes .controller .relWrite (s.rings.rbase + 4)
        (wordBytes (fun _ => Mark.clear) s.readPublished)).setPhase .signal) := by
  obtain ⟨hb, _, hrace⟩ := hc
  have hfree : ∀ k < 4, (s.cmdMarks s.remoteRing 0 (s.rings.rbase + 4) k).free = false := fun k _ =>
    State.cmdMarks_free (hov _)
  rw [State.controllerTurn_read c hf hcmd]
  simp only [State.readStep, hp, State.publishStep, hb, hrace, Bool.false_eq_true, if_false, RingView.ridxAddr_eq]
  rw [show s.remoteRing.base = s.rings.rbase from rfl, State.wordWritten_eq hfree,
    State.wordBytes_cmdMarks fun _ _ => hov _]

theorem State.controllerTurn_readSignal (c : CtlChoice) (hf : s.fsm = .exec) (hcmd : s.xfer.cmd = .read)
    (hp : s.xfer.phase = .signal) : s.controllerTurn c = .next s.signalPartner.readResults.complete := by
  rw [State.controllerTurn_read c hf hcmd]
  simp only [State.readStep, hp]

/-- After the publish of `v`, the signal, the results and the completion. -/
theorem State.readResults_published (v : Word) (s : State) :
    ((s.storeBytes .controller .relWrite (s.rings.rbase + 4) (wordBytes (fun _ => Mark.clear) v)).setPhase
      .signal).signalPartner.readResults.complete = s.readFinished v := by
  rw [State.storeBytes_eq, wordBytes_val, wordBytes_length]
  rfl

/-- The publish and the signal. -/
theorem runChoices_readEnd (hf : s.fsm = .exec) (hcmd : s.xfer.cmd = .read) (hp : s.xfer.phase = .publish)
    (hov : ∀ a, s.overlapped s.remoteRing a = false) {c₁ : CtlChoice} (hc : c₁.clean) (c₂ : CtlChoice) :
    runChoices [c₁, c₂] s = .next (s.readFinished s.readPublished) := by
  refine (runChoices_cons _ (State.controllerTurn_readPublish hf hcmd hp hc hov)).trans ?_
  rw [← State.readResults_published]
  exact runChoices_cons [] (State.controllerTurn_readSignal c₂ hf hcmd rfl)

/-! ### The whole run -/

/-- The whole run of an admitted READ: after the data accesses `es`, which leave the payload at the destination and gather
the id, it publishes and signals. -/
theorem ReadAdmitted.runChoices_read (h : ReadAdmitted s) {cs : List CtlChoice} (hc : ∀ c ∈ cs, c.clean)
    (hlen : cs.length = 25 + 2 * (s.msgLen.toNat - 20)) :
    ∃ u es, runChoices cs s.readStarted = .next (u.readFinished u.readPublished) ∧
      Gathered s.readChecked u es ∧ es.length = 20 + 2 * (s.msgLen.toNat - 20) ∧
      Gathering s.delivered (fun k => s.msgAddr (4 + k)) u.mem [] u.xfer.ident := by
  obtain ⟨c₁, cs, rfl⟩ := List.exists_cons_of_length_pos (l := cs) (by omega)
  obtain ⟨c₂, c₃, ds, c₄, c₅, rfl, hds⟩ :=
    exists_choices_split (cs := cs) (n := 20 + 2 * (s.msgLen.toNat - 20)) (by simp at hlen; omega)
  simp only [List.mem_cons, List.mem_append, forall_eq, or_imp, forall_and] at hc
  obtain ⟨h₁, h₂, h₃, hdata, h₄, _⟩ := hc
  have hphase : s.readChecked.xfer.phase = .ofTodo s.readChecked.xfer.todo := by
    simp [Phase.ofTodo, State.msgPlan_ne_nil, State.readChecked]
  have hsteps : ds.length = stepsOf s.readChecked.xfer.todo := hds.trans s.msgPlan_steps.symm
  obtain ⟨u, es, hrun, hacc, heslen, hpub, hdone⟩ := runChoices_gathering rfl hphase h.gathering hdata hsteps
  refine ⟨u, es, ?_, hacc, heslen.trans hds, hdone⟩
  rw [h.runChoices_cursors h₁ h₂, runChoices_cons _ (h.controllerTurn_length h₃), runChoices_append hrun]
  obtain ⟨_, _, m, todo, p, d, rfl⟩ := hacc
  exact runChoices_readEnd rfl rfl hpub h.overlapped h₄ c₅

/-- Settles O37: `runChoices_read` says what the run is; the publish changes neither the destination nor any byte but the
cursor's. -/
theorem readDeliversTheMessage : Obligations.ReadDeliversTheMessage := by
  unfold Obligations.ReadDeliversTheMessage
  intro s cs hi hf ho hrv hhwf haddr hdr g n w r l p hr hw havail hleast hfits hapart hc hlen
  have h : ReadAdmitted s := ⟨hi, hf, ho, hrv, hhwf, haddr, hr, hw, havail, hleast, hfits, hapart⟩
  obtain ⟨u, es, hrun, hacc, heslen, hdone⟩ := h.runChoices_read hc hlen
  obtain ⟨hmem, hident⟩ := hdone.done
  have hwf := hdone.filling.wf
  have hkept : ∀ a, (∀ k < 4, a ≠ s.rings.rbase + 4 + BitVec.ofNat 32 k) →
      (u.mem.writeBytes (s.rings.rbase + 4) (le32 u.readPublished)).read8 a = s.delivered.read8 a := fun a ha =>
    (Mem.read8_publish hwf ha).trans (hmem a)
  have hid : ∀ k < 16, u.xfer.ident.byte k = s.mem.read8 (g.byteAddr hdr r.toNat (4 + k)) := fun k hk =>
    (hident k hk).trans (h.read8_outside fun _ hj => h.dst_ne hj _)
  have hcur := h.cursorAccess (kind := .relWrite) nofun (.inr rfl)
  have hstart := execRead_starts hf ho (State.readChecks_pass hrv hhwf haddr)
  obtain ⟨_, hes, m, todo, q, d, rfl⟩ := hacc
  refine ⟨s.readStarted, _, hstart, hrun, rfl, rfl, hid, rfl,
    fun i hi => (hkept _ fun _ hk => h.dst_ne_cursor hi hk).trans (h.read8_payload hi),
    Mem.read32_writeBytes_le32 hwf _ _, fun a hdst hword => (hkept a hword).trans (h.read8_outside hdst),
    rfl, rfl, rfl, rfl, rfl, rfl, rfl, es, heslen, hes, ?_⟩
  exact congrArg (fun b => _ :: wordEvent _ _ _ _ b :: _) hcur

end Sys2Proof.Machine
end

section
/-! PROOFS. The session commands at BUSY = 0 (`45_session.md` R142 to R147), and the commands that a closed socket
rejects (`60_exceptions.md` R155). -/

namespace Sys2Proof.Machine

variable {s : State}

/-! ### OPEN -/

/-- An idle controller's OPEN. -/
theorem execOpenSocket_idle (rxie : Bool) (hf : s.fsm = .idle) :
    exec (.openSocket rxie) s = .next (s.openIdle rxie) :=
  congrArg Host.Outcome.next (State.atIdle_idle _ hf)

/-- On an open socket OPEN is rejected. -/
theorem State.openIdle_open (rxie : Bool) (hf : s.fsm = .idle) (ho : s.status.isOpen = true) :
    s.openIdle rxie = s.rejected 0x1 .alreadyOpen :=
  (if_pos ho).trans (State.raise_setLopc _ _ hf)

/-- On a closed socket OPEN keeps its CMD word and the negotiation starts. -/
theorem State.openIdle_closed (rxie : Bool) (ho : s.status.isOpen = false) :
    s.openIdle rxie = ((s.setLopc 0x1).acceptCmd (.openSocket rxie)).negStart .openCmd :=
  if_neg (by simp [ho])

/-- Settles O8: OPEN by the state of the socket. -/
theorem openStartsNegotiation : Obligations.OpenStartsNegotiation := by
  unfold Obligations.OpenStartsNegotiation
  refine fun s rxie hf => ⟨fun ho => ?_, fun ho => ?_⟩
  · rw [execOpenSocket_idle rxie hf, State.openIdle_closed rxie ho]
    rfl
  · rw [execOpenSocket_idle rxie hf, State.openIdle_open rxie hf ho]
    rfl

/-! ### CLOSE and RESET -/

/-- A command that completes in the step of its CMD write, at BUSY = 0, changes only ERR and DETAIL by that. -/
theorem State.complete_of_idle (hf : s.fsm = .idle) :
    s.complete = { s with status := { s.status with err := .ok, detail := .none } } := by
  rw [State.complete, ← hf]

/-- Settles O9: an idle controller on an open socket runs CLOSE_EFFECTS and completes. -/
theorem closeClearsTheSocket : Obligations.CloseClearsTheSocket := by
  unfold Obligations.CloseClearsTheSocket
  intro s hf ho
  rw [exec, execClose, State.atIdleOrAbort_idle _ _ hf, State.withOpen_open _ _ ho, State.complete_of_idle]
  · rfl
  · exact hf

/-- Settles O10: an idle controller on an open socket runs RESET_EFFECTS and completes. -/
theorem resetForcesRenegotiation : Obligations.ResetForcesRenegotiation := by
  unfold Obligations.ResetForcesRenegotiation
  intro s both hf ho
  rw [exec, execReset, State.atIdleOrAbort_idle _ _ hf, State.withOpen_open _ _ ho, State.complete_of_idle]
  · rfl
  · exact hf

/-! ### Commands on a closed socket -/

/-- A command that demands an open socket is rejected on a closed one. -/
theorem State.withOpen_rejected (o : BitVec 4) (f : State → State) (hf : s.fsm = .idle)
    (ho : s.status.isOpen = false) : s.withOpen o f = s.rejected o .notOpen :=
  (State.withOpen_closed o f ho).trans (State.raise_setLopc o .notOpen hf)

/-- Settles O13: each of the six commands, at BUSY = 0, demands an open socket first. -/
theorem closedSocketRejectsCommands : Obligations.ClosedSocketRejectsCommands := by
  unfold Obligations.ClosedSocketRejectsCommands
  intro s hf ho
  have hidle : ∀ o f, s.atIdle (State.withOpen o f) = s.rejected o .notOpen := fun o f =>
    (State.atIdle_idle _ hf).trans (State.withOpen_rejected o f hf ho)
  have habort : ∀ i o f, s.atIdleOrAbort i (State.withOpen o f) = s.rejected o .notOpen := fun i o f =>
    (State.atIdleOrAbort_idle i _ hf).trans (State.withOpen_rejected o f hf ho)
  exact ⟨congrArg _ (habort _ _ _), congrArg _ (hidle _ _), congrArg _ (hidle _ _),
    fun both => congrArg _ (habort (.reset both) _ _), execWrite_closed hf ho, execRead_closed hf ho⟩

end Sys2Proof.Machine
end

section
/-! PROOFS. The machine's invariant under each shared operation: the interrupt registers and the negotiation's state
set, the effects of the session commands at BUSY = 0, and the end and the beginning of a command. -/

namespace Sys2Proof.Machine

variable {s t : State}

/-! ### Fields set -/

/-- The invariant asks of the interrupt registers only that RXP is set on an open socket alone. -/
theorem MachineInv.setIrq (h : MachineInv s) (i : Irq) (hr : i.rxp = true → s.status.isOpen = true) :
    MachineInv { s with irq := i } where
  cfg := h.cfg
  socket := { h.socket with openOfRxp := hr }
  lopc := ⟨h.lopc.waiting, h.lopc.running⟩
  xfer := h.xfer.frame s.env s.ghost s.results s.mbx s.mem s.status i s.neg
  fifo := h.fifo
  mem := h.mem

/-- Of the negotiation's state the invariant outside the socket's depends on its kind alone. -/
theorem MachineInv.setNeg (h : MachineInv s) {n : Neg} (hk : n.kind = s.neg.kind)
    (hs : SocketInv { s with neg := n }) : MachineInv { s with neg := n } where
  cfg := h.cfg
  socket := hs
  lopc := ⟨fun hf => hk ▸ h.lopc.waiting hf, h.lopc.running⟩
  xfer := h.xfer.frame s.env s.ghost s.results s.mbx s.mem s.status s.irq n
  fifo := h.fifo
  mem := h.mem

/-- The environment is no part of the invariant. -/
theorem MachineInv.setEnv (h : MachineInv s) (e : Env) : MachineInv { s with env := e } :=
  h.frame e s.ghost s.results s.mbx s.mem s.status.ovr h.fifo h.mem

theorem MachineInv.overrun (h : MachineInv s) : MachineInv s.overrun :=
  h.frame s.env s.ghost s.results s.mbx s.mem true h.fifo h.mem

theorem MachineInv.acceptCmd (h : MachineInv s) (i : Instr) : MachineInv (s.acceptCmd i) :=
  h.setNeg rfl { h.socket with }

/-! ### An idle controller -/

/-- The state of the negotiation while none waits: no entry, no abort and no timeout event (`10_state.md` R16,
`42_negotiation.md` R106, R107). -/
structure NegRests (s : State) : Prop where
  ents : s.neg.ents = []
  abort : s.neg.abortReq = false
  timeout : s.neg.timeoutEv = false

/-- The negotiation is at rest outside NEG_WAIT. -/
theorem SocketInv.negRests (h : SocketInv s) (hf : s.fsm ≠ .negWait) : NegRests s :=
  ⟨h.idleEnts hf, h.idleAbort hf, h.idleTimeout hf⟩

/-- While the controller is idle the invariant is that of the socket, the FIFO and memory. -/
theorem MachineInv.of_idle (h : MachineInv s) (hf : t.fsm = .idle) (hs : SocketInv t) (hcfg : t.cfg = s.cfg)
    (hin : t.mbx.inbound.length ≤ s.mbx.inbound.length) (hm : t.mem = s.mem) : MachineInv t where
  cfg := hcfg ▸ h.cfg
  socket := hs
  lopc := ⟨fun hw => absurd (hf.symm.trans hw) nofun, fun hx => absurd (hf.symm.trans hx) nofun⟩
  xfer := .of_not_exec (by simp [hf])
  fifo := hin.trans (hcfg ▸ h.fifo)
  mem := (congrArg Mem.wf hm).trans h.mem

/-- The end of a command with an error, the negotiation being at rest (`00_scope.md` R11). -/
theorem MachineInv.raise (h : MachineInv s) (hn : NegRests s) (d : Detail) : MachineInv (s.raise d) :=
  h.of_idle rfl
    { h.socket with
      errOfDetail := rfl
      waitRv := nofun
      waitKind := nofun
      waitFew := nofun
      idleEnts := fun _ => hn.ents
      idleAbort := fun _ => hn.abort
      idleTimeout := fun _ => hn.timeout
      execReady := nofun }
    rfl le_rfl rfl

/-- The end of a command with success. -/
theorem MachineInv.complete (h : MachineInv s) (hn : NegRests s) : MachineInv s.complete :=
  h.raise hn .none

/-- An idle controller's command that fails in the step of its CMD write leaves it idle. -/
theorem MachineInv.raise_of_idle (h : MachineInv s) (hf : s.fsm = .idle) (d : Detail) : MachineInv (s.raise d) :=
  h.raise (h.socket.negRests (by simp [hf])) d

/-- The same for one that completes. -/
theorem MachineInv.complete_of_idle (h : MachineInv s) (hf : s.fsm = .idle) : MachineInv s.complete :=
  h.raise_of_idle hf .none

theorem MachineInv.setLopc (h : MachineInv s) (hf : s.fsm = .idle) (o : BitVec 4) : MachineInv (s.setLopc o) :=
  h.of_idle hf { h.socket with } rfl le_rfl rfl

/-- CLOSE_EFFECTS on an idle controller: the socket is closed and every register that needs an open one is cleared. -/
theorem MachineInv.closeEffects (h : MachineInv s) (hf : s.fsm = .idle) : MachineInv s.closeEffects :=
  h.of_idle hf
    { h.socket with
      openOfRv := nofun
      openOfHwf := nofun
      openOfRxp := nofun
      ringsUnset := fun _ => rfl
      localOk := nofun
      remoteOk := nofun
      waitRv := fun _ => rfl
      waitKind := fun hw => absurd (hf.symm.trans hw) nofun
      execReady := fun hx => absurd (hf.symm.trans hx) nofun }
    rfl le_rfl rfl

/-- RESET_EFFECTS on an idle controller: RV is cleared with the descriptor registers, and the FIFO is emptied. -/
theorem MachineInv.resetEffects (h : MachineInv s) (hf : s.fsm = .idle) (both : Bool) :
    MachineInv (s.resetEffects both) :=
  h.of_idle hf
    { h.socket with
      openOfRv := nofun
      openOfHwf := nofun
      ringsUnset := fun _ => rfl
      localOk := nofun
      remoteOk := nofun
      waitRv := fun _ => rfl
      execReady := fun hx => absurd (hf.symm.trans hx) nofun }
    rfl (Nat.zero_le _) rfl

/-! ### A command that begins -/

/-- NEG_START of the negotiation that LOPC and the socket's state name (`42_negotiation.md` R100). -/
theorem MachineInv.negStart (h : MachineInv s) (hf : s.fsm = .idle) {k : NegKind}
    (hk : s.status.isOpen = true ↔ k = .negotiateCmd) (hl : s.status.lopc = k.opc) : MachineInv (s.negStart k) where
  cfg := h.cfg
  socket :=
    { h.socket with
      openOfRv := nofun
      ringsUnset := fun _ => rfl
      localOk := nofun
      remoteOk := nofun
      waitRv := fun _ => rfl
      waitKind := fun _ => hk
      waitFew := fun _ => by simp [Config.negEntries]
      idleEnts := fun _ => rfl
      idleAbort := fun _ => h.socket.idleAbort (by simp [hf])
      idleTimeout := fun _ => rfl
      timeoutEnabled := nofun
      execReady := nofun }
  lopc := ⟨fun _ => hl, nofun⟩
  xfer := .of_not_exec nofun
  fifo := h.fifo
  mem := h.mem

/-- The invariant of a running WRITE's transfer, from its parts. -/
theorem XferInv.of_write (hc : s.xfer.cmd = .write) (haddr : s.args.addr ≠ 0) (hp : s.xfer.phase ≠ .loadLen)
    (hpos : 0 < s.args.len.toNat) (hmax : s.args.len.toNat ≤ Config.rbMaxPayloadLen)
    (hrun : s.xfer.phase = .data ∨ s.xfer.phase = .publish ∨ s.xfer.phase = .signal → WriteRunning s)
    (hdata : s.xfer.phase = .data ↔ s.xfer.todo ≠ []) : XferInv s :=
  fun _ => ⟨haddr, by rw [hc]; exact ⟨hp, hpos, hmax, hrun⟩, hdata⟩

/-- The invariant of a running READ's transfer, from its parts. -/
theorem XferInv.of_read (hc : s.xfer.cmd = .read) (haddr : s.args.addr ≠ 0)
    (hlen : s.xfer.phase = .loadLen → ReadChecked s)
    (hrun : s.xfer.phase = .data ∨ s.xfer.phase = .publish ∨ s.xfer.phase = .signal → ReadRunning s)
    (hdata : s.xfer.phase = .data ↔ s.xfer.todo ≠ []) : XferInv s :=
  fun _ => ⟨haddr, by rw [hc]; exact ⟨hlen, hrun⟩, hdata⟩

/-- WRITE or READ begins in the Ready state, with the arguments its checks demand (`45_session.md` R149). -/
theorem MachineInv.enterExec (h : MachineInv s) (hf : s.fsm = .idle) {cmd : XferCmd} (hl : s.status.lopc = cmd.opc)
    (ho : s.status.isOpen = true) (hrv : s.status.rv = true) (hhwf : s.status.hwf = false) (haddr : s.args.addr ≠ 0)
    (hlen : cmd = .write → 0 < s.args.len.toNat ∧ s.args.len.toNat ≤ Config.rbMaxPayloadLen) :
    MachineInv (s.enterExec cmd) where
  cfg := h.cfg
  socket :=
    have hn := h.socket.negRests (by simp [hf])
    { h.socket with
      waitRv := nofun
      waitKind := nofun
      waitFew := nofun
      idleEnts := fun _ => hn.ents
      idleAbort := fun _ => hn.abort
      idleTimeout := fun _ => hn.timeout
      execReady := fun _ => ⟨ho, hrv, hhwf⟩ }
  lopc := ⟨nofun, fun _ => hl⟩
  xfer := by
    cases cmd with
    | write => exact .of_write rfl haddr (by simp) (hlen rfl).1 (hlen rfl).2 (by simp) (by simp)
    | read => exact .of_read rfl haddr (by simp) (by simp) (by simp)
  fifo := h.fifo
  mem := h.mem

end Sys2Proof.Machine
end

section
/-! PROOFS. The machine's invariant under the controller's step: each primitive of a running WRITE or READ keeps what
its checks have established, and a step of the negotiation ends in one of the states of `45_session.md` R149. -/

namespace Sys2Proof.Machine

variable {s t : State} {c : CtlChoice} {todo : List DataOp} {op : DataOp} {i : Nat}

/-! ### The loads of a running command -/

/-- A primitive that may get an error response, which ends the command. -/
theorem XferInv.ite_busFail (b : Bool) (h : XferInv t) : XferInv (if b then s.busFail else t) := by
  cases b
  · exact h
  · exact .of_not_exec nofun

/-- The acquire read leads to the read of the command's own cursor, whatever it returns. -/
theorem XferInv.acquired (h : XferInv s) (hf : s.fsm = .exec) (hp : s.xfer.phase = .loadPeer) {x : Xfer} {g : Ghost}
    (hc : x.cmd = s.xfer.cmd) (hx : x.phase = .loadOwn) (htodo : x.todo = s.xfer.todo) :
    XferInv { s with xfer := x, ghost := g } := by
  obtain ⟨haddr, _, hdata⟩ := h hf
  have hdata' : x.phase = .data ↔ x.todo ≠ [] := by simpa [hx, htodo, hp] using hdata
  cases hcmd : s.xfer.cmd with
  | write =>
    obtain ⟨_, hpos, hmax, _⟩ := h.write hf hcmd
    exact .of_write (hc.trans hcmd) haddr (by simp [hx]) hpos hmax (by simp [hx]) hdata'
  | read => exact .of_read (hc.trans hcmd) haddr (by simp [hx]) (by simp [hx]) hdata'

/-- WRITE's checks establish what its data accesses rely on (`43_write.md` R117, R118). -/
theorem State.writeLoaded_xferInv (h : XferInv s) (hf : s.fsm = .exec) (hc : s.xfer.cmd = .write) (w : Word)
    (g : Ghost) : XferInv (s.writeLoaded w g) := by
  obtain ⟨haddr, _⟩ := h hf
  obtain ⟨_, hpos, hmax, _⟩ := h.write hf hc
  rw [State.writeLoaded]
  split_ifs with hok hroom
  · exact .of_not_exec nofun
  · refine .of_write hc haddr nofun hpos hmax (fun _ => ?_) (by simp [State.writePlan_ne_nil])
    exact ⟨hpos, hmax, hok.1, hok.2, not_lt.1 hroom, rfl,
      State.writePlan_targets { s with xfer := { s.xfer with w := w } }, (State.writePlan_steps _ _).le⟩
  · exact .of_not_exec nofun

/-- READ's cursor check and empty test establish what its length field's read relies on (`44_read.md` R130, R132). -/
theorem State.readLoaded_xferInv (h : XferInv s) (hf : s.fsm = .exec) (hc : s.xfer.cmd = .read)
    (hp : s.xfer.phase = .loadOwn) (r : Word) (g : Ghost) : XferInv (s.readLoaded r g) := by
  obtain ⟨haddr, _, hdata⟩ := h hf
  rw [State.readLoaded]
  split_ifs with hok hempty
  · exact .of_not_exec nofun
  · exact .of_read hc haddr (fun _ => ⟨hok.1, hok.2, not_lt.1 hempty⟩) (by simp) (by simpa [hp] using hdata)
  · exact .of_not_exec nofun

/-- READ's last checks establish what its data accesses rely on (`44_read.md` R135, R136). -/
theorem State.readMeasured_xferInv (h : XferInv s) (hf : s.fsm = .exec) (hc : s.xfer.cmd = .read)
    (hp : s.xfer.phase = .loadLen) (l : Word) (g : Ghost) : XferInv (s.readMeasured l g) := by
  obtain ⟨haddr, _⟩ := h hf
  obtain ⟨hchecked, _⟩ := h.read hf hc
  obtain ⟨hr, hw, havail⟩ := hchecked hp
  rw [State.readMeasured]
  split_ifs with hlen hdst
  · exact .of_not_exec nofun
  · exact .of_not_exec nofun
  · obtain ⟨hfits, hleast⟩ := not_or.1 hlen
    refine .of_read hc haddr nofun (fun _ => ?_) (by simp [State.readPlan_ne_nil])
    exact ⟨⟨hr, hw, havail⟩, not_lt.1 hfits, not_lt.1 hleast, not_lt.1 hdst, rfl, State.readPlan_targets _,
      (State.readPlan_steps _).le⟩

/-! ### The data accesses and the publish -/

/-- Accesses that write no other bytes and take no more steps. -/
structure NoMore (todo todo' : List DataOp) : Prop where
  pending : ∀ a, PendingAt todo' a → PendingAt todo a
  steps : stepsOf todo' ≤ stepsOf todo

/-- An access that is done is pending no more. -/
theorem NoMore.eraseIdx (h : todo[i]? = some op) : NoMore todo (todo.eraseIdx i) where
  pending _ ha := (pendingAt_iff_eraseIdx h).2 (.inr ha)
  steps := (stepsOf_eraseIdx h).symm ▸ Nat.le_add_right _ _

/-- A copy whose byte is read is still to write it. -/
theorem NoMore.copy {src dst : Word} {b : Byte} {o o' p : Bool} (h : todo[i]? = some (.copy src dst o o')) :
    NoMore todo (todo.set i (.put dst b p)) where
  pending _ ha := (pendingAt_iff_eraseIdx h).2 ((pendingAt_set h (.put dst b p)).1 ha)
  steps := by
    have := stepsOf_set (.put dst b p) h
    simp only [DataOp.steps] at this
    omega

/-- One data access: memory, the accesses pending, the id gathered and the record alone change. -/
theorem State.performOp_noMore (race : Bool) (h : s.xfer.todo[i]? = some op) : ∃ m g todo ident,
    s.performOp race i op =
      { s with mem := m, ghost := g, xfer := { s.xfer with todo := todo, phase := .ofTodo todo, ident := ident } } ∧
    NoMore s.xfer.todo todo := by
  cases op with
  | put dst b o => exact ⟨_, _, _, _, rfl, .eraseIdx h⟩
  | copy src dst o o' => exact ⟨_, _, _, _, rfl, .copy h⟩
  | header src k o => exact ⟨_, _, _, _, rfl, .eraseIdx h⟩

/-- A command that has passed its checks goes on with no more accesses to make. -/
theorem XferInv.goesOn (h : XferInv s) (hf : s.fsm = .exec) (hp : s.xfer.phase = .data ∨ s.xfer.phase = .publish)
    (hno : NoMore s.xfer.todo todo) {p : Phase} (hlen : p ≠ .loadLen) (hdata : p = .data ↔ todo ≠ []) (m : Mem)
    (g : Ghost) (ident : IdRegs) :
    XferInv { s with mem := m, ghost := g, xfer := { s.xfer with todo := todo, phase := p, ident := ident } } := by
  obtain ⟨haddr, _⟩ := h hf
  have hp : s.xfer.phase = .data ∨ s.xfer.phase = .publish ∨ s.xfer.phase = .signal := hp.imp_right .inl
  cases hcmd : s.xfer.cmd with
  | write =>
    obtain ⟨_, hpos, hmax, hrun⟩ := h.write hf hcmd
    obtain ⟨_, _, hr, hw, hroom, hposIs, htargets, hwork⟩ := hrun hp
    refine .of_write hcmd haddr hlen hpos hmax (fun _ => ?_) hdata
    refine ⟨hpos, hmax, hr, hw, hroom, hposIs, fun op hop a ha => ?_, hno.steps.trans hwork⟩
    obtain ⟨op', hop', ha'⟩ := hno.pending a ⟨op, hop, ha⟩
    exact htargets op' hop' a ha'
  | read =>
    obtain ⟨_, hrun⟩ := h.read hf hcmd
    obtain ⟨⟨hr, hw, havail⟩, hfits, hleast, hdst, hposIs, htargets, hwork⟩ := hrun hp
    refine .of_read hcmd haddr (absurd · hlen) (fun _ => ?_) hdata
    refine ⟨⟨hr, hw, havail⟩, hfits, hleast, hdst, hposIs, fun op hop a ha => ?_, hno.steps.trans hwork⟩
    obtain ⟨op', hop', ha'⟩ := hno.pending a ⟨op, hop, ha⟩
    exact htargets op' hop' a ha'

theorem Phase.ofTodo_eq_data : Phase.ofTodo todo = .data ↔ todo ≠ [] := by
  cases todo <;> simp [Phase.ofTodo]

theorem Phase.ofTodo_ne_loadLen : Phase.ofTodo todo ≠ .loadLen := by
  cases todo <;> simp [Phase.ofTodo]

theorem XferInv.dataStep (h : XferInv s) (hf : s.fsm = .exec) (hp : s.xfer.phase = .data) (c : CtlChoice) :
    XferInv (s.dataStep c) := by
  obtain ⟨_, _, hdata⟩ := h hf
  obtain ⟨i, op, _, hget, heq⟩ := State.dataStep_cases c (hdata.1 hp)
  obtain ⟨m, g, todo, ident, hop, hno⟩ := State.performOp_noMore (c.race.getLsbD 0) hget
  rw [heq, hop]
  exact .ite_busFail _ (h.goesOn hf (.inl hp) hno Phase.ofTodo_ne_loadLen Phase.ofTodo_eq_data m g ident)

theorem XferInv.publishStep (h : XferInv s) (hf : s.fsm = .exec) (hp : s.xfer.phase = .publish) (c : CtlChoice)
    (r : RingView) (a v : Word) : XferInv (s.publishStep c r a v) := by
  obtain ⟨_, _, hdata⟩ := h hf
  rcases s.publishStep_cases c r a v with ⟨_, heq⟩ | ⟨_, heq⟩ <;> rw [heq]
  · exact .of_not_exec nofun
  · exact h.goesOn (p := .signal) hf (.inr hp) ⟨fun _ ha => ha, le_rfl⟩ nofun (by simpa [hp] using hdata) _ _ _

/-! ### The running command -/

/-- A running WRITE keeps its transfer's invariant, phase by phase. -/
theorem XferInv.writeStep (h : XferInv s) (hf : s.fsm = .exec) (hc : s.xfer.cmd = .write) (c : CtlChoice) :
    XferInv (s.writeStep c) := by
  obtain ⟨hlen, _⟩ := h.write hf hc
  simp only [State.writeStep]
  split
  · rw [State.writeLoadPeer_eq]
    exact .ite_busFail _ (h.acquired hf ‹_› rfl rfl rfl)
  · rw [State.writeLoadOwn_eq]
    exact .ite_busFail _ (State.writeLoaded_xferInv h hf hc _ _)
  · exact absurd ‹_› hlen
  · exact h.dataStep hf ‹_› c
  · exact h.publishStep hf ‹_› c _ _ _
  · exact .of_not_exec nofun

/-- A running READ keeps its transfer's invariant, phase by phase. -/
theorem XferInv.readStep (h : XferInv s) (hf : s.fsm = .exec) (hc : s.xfer.cmd = .read)
    (hcap : s.rings.rcap.toNat % 16 = 0) (c : CtlChoice) : XferInv (s.readStep c) := by
  simp only [State.readStep]
  split
  · rw [State.readLoadPeer_eq]
    exact .ite_busFail _ (h.acquired hf ‹_› rfl rfl rfl)
  · rw [State.readLoadOwn_eq _ hcap]
    exact .ite_busFail _ (State.readLoaded_xferInv h hf hc ‹_› _ _)
  · rw [State.readLoadLen_eq]
    exact .ite_busFail _ (State.readMeasured_xferInv h hf hc ‹_› _ _)
  · exact h.dataStep hf ‹_› c
  · exact h.publishStep hf ‹_› c _ _ _
  · exact .of_not_exec nofun

/-- Every way a step of a running command goes on or ends sets ERR with DETAIL, or neither (`30_encoding.md` R75). -/
theorem ExecStep.errOfDetail (h : ExecStep s c t) (hs : s.status.err = s.status.detail.kind) :
    t.status.err = t.status.detail.kind := by
  cases h with
  | busFails | publishFails | signals => rfl
  | acquires | publishes => exact hs
  | loads a keep hp hb hk ht =>
    cases ht with
    | raises | faults => rfl
    | toLength | toData => exact hs
  | @performs i op => cases op <;> exact hs

/-- What a step of a running command writes leaves memory in canonical form. -/
theorem ExecStep.mem_wf (h : ExecStep s c t) (hi : MachineInv s) (hf : s.fsm = .exec) : Mem.wf t.mem = true := by
  rcases h.mem_cases hi.xfer hf with hm | ⟨_, a, _, b, hm⟩ | ⟨_, v, hm⟩ <;> rw [hm]
  · exact hi.mem
  · exact Mem.wf_write8 hi.mem a b
  · exact Mem.wf_writeBytes hi.mem _ _

/-- A step of a running command leaves the socket as it is: HWF, which it may set, stands on an open socket. -/
theorem ExecStep.socketInv (h : ExecStep s c t) (hi : SocketInv s) (hf : s.fsm = .exec) : SocketInv t := by
  obtain ⟨ho, hrv, hhwf⟩ := hi.execReady hf
  obtain ⟨hents, habort, htimeout⟩ := hi.negRests (by simp [hf])
  have hk := h.kept hf
  have hopen : t.status.isOpen = true := hk.isOpen.trans ho
  have hwait : t.fsm ≠ .negWait := by rcases hk.fsm with he | he <;> simp [he]
  constructor
  case openOfRv | openOfHwf | openOfRxp => exact fun _ => hopen
  case ringsUnset => simp [hk.rv, hrv]
  case localOk => exact fun _ => hk.cfg ▸ hk.rings ▸ hi.localOk hrv
  case remoteOk => exact fun _ => hk.cfg ▸ hk.rings ▸ hi.remoteOk hrv
  case errOfDetail => exact h.errOfDetail hi.errOfDetail
  case waitRv | waitKind | waitFew => exact fun hw => absurd hw hwait
  case idleEnts => exact fun _ => hk.neg ▸ hents
  case idleAbort => exact fun _ => hk.neg ▸ habort
  case idleTimeout => exact fun _ => hk.neg ▸ htimeout
  case timeoutEnabled => simp [hk.neg, htimeout]
  case abortLegal => simp [hk.neg, habort]
  case execReady => exact fun he => ⟨hopen, hk.rv.trans hrv, (hk.goesOn he).1 ▸ hhwf⟩

/-- LOPC names the command while it runs, as the step keeps both. -/
theorem ExecStep.lopcInv (h : ExecStep s c t) (hi : LopcInv s) (hf : s.fsm = .exec) : LopcInv t where
  waiting hw := by
    rcases (h.kept hf).fsm with he | he <;> simp [he] at hw
  running he := by
    obtain ⟨_, _, _, hcmd⟩ := (h.kept hf).goesOn he
    rw [(h.kept hf).lopc, hcmd, hi.running hf]

/-- A step of a running WRITE or READ keeps the invariant. -/
theorem ExecStep.machineInv (h : ExecStep s c t) (hi : MachineInv s) (hf : s.fsm = .exec) (hx : XferInv t) :
    MachineInv t where
  cfg := (h.kept hf).cfg ▸ hi.cfg
  socket := h.socketInv hi.socket hf
  lopc := h.lopcInv hi.lopc hf
  xfer := hx
  fifo := by
    rw [FifoInv, (h.kept hf).inbound, (h.kept hf).cfg]
    exact hi.fifo
  mem := h.mem_wf hi hf

/-! ### The end of a negotiation -/

/-- The negotiation's entries and its timeout event are gone (`42_negotiation.md` R103, R104, R107). -/
theorem MachineInv.negOver (h : MachineInv s) : MachineInv s.negOver :=
  h.setNeg rfl
    { h.socket with
      waitFew := fun _ => by simp [Config.negEntries]
      idleEnts := fun _ => rfl
      idleTimeout := fun _ => rfl
      timeoutEnabled := nofun }

/-- The recorded abort is spent. -/
theorem MachineInv.abortOver (h : MachineInv s) : MachineInv { s with neg := { s.neg with abortReq := false } } :=
  h.setNeg rfl { h.socket with idleAbort := fun _ => rfl, abortLegal := nofun }

/-- Of the teardown of a waiting OPEN only RXIE is left to clear, since its socket is closed. -/
theorem MachineInv.tearDownOpen (h : MachineInv s) (hf : s.fsm = .negWait) : MachineInv s.tearDownOpen := by
  have hopen : (if s.neg.kind = .openCmd then false else s.status.isOpen) = s.status.isOpen := by
    split
    · exact (h.socket.closed_of_openCmd hf ‹_›).symm
    · rfl
  rw [State.tearDownOpen_eq, hopen]
  exact h.setIrq _ h.socket.openOfRxp

/-- NEG_FAIL with no abort recorded: the end of the negotiation, with a waiting OPEN torn down. -/
theorem MachineInv.negFail (h : MachineInv s) (hf : s.fsm = .negWait) (ha : s.neg.abortReq = false) (d : Detail) :
    MachineInv (s.negFail d) := by
  refine (h.negOver.tearDownOpen hf).raise ?_ d
  rw [State.tearDownOpen_eq]
  exact ⟨rfl, ha, rfl⟩

/-- The negotiation that an abort ends, with an abandoned OPEN torn down, before the aborting command's effects
(`42_negotiation.md` R107). -/
def State.negAbandoned (s : State) : State :=
  (State.tearDownOpen { s.negOver with neg := { s.negOver.neg with abortReq := false } }).complete

/-- NEG_ABORT runs the effects of CLOSE or RESET on the negotiation that it has ended. -/
theorem State.negAbort_eq_effects (s : State) : s.negAbort =
    if opcField s.neg.abortCmd = 2 then (s.negAbandoned.setLopc (opcField s.neg.abortCmd)).closeEffects
    else (s.negAbandoned.setLopc (opcField s.neg.abortCmd)).resetEffects (s.neg.abortCmd.getLsbD 4) := rfl

/-- Both aborting commands have their effects on an idle controller. -/
theorem MachineInv.negAbort (h : MachineInv s) (hf : s.fsm = .negWait) : MachineInv s.negAbort := by
  have hended : MachineInv s.negAbandoned := by
    refine (h.negOver.abortOver.tearDownOpen hf).complete ?_
    rw [State.tearDownOpen_eq]
    exact ⟨rfl, rfl, rfl⟩
  have hidle : MachineInv (s.negAbandoned.setLopc (opcField s.neg.abortCmd)) := hended.setLopc rfl _
  rw [State.negAbort_eq_effects]
  split
  · exact hidle.closeEffects rfl
  · exact hidle.resetEffects rfl _

/-- The registers of a ring from a valid descriptor (`10_state.md` R23, `40_descriptor.md` R82). -/
theorem ringRegsOk_descParse {p : Params} (hp : p.Valid) {word : Word} (hv : 0 < (descParse p.rbHdrSize word).cap) :
    RingRegsOk p.rbHdrSize (descParse p.rbHdrSize word).desc (descParse p.rbHdrSize word).base
      (BitVec.ofNat 32 (descParse p.rbHdrSize word).cap.toNat) := by
  have hle := descParse_cap_le p.rbHdrSize word
  have hmod := descParse_cap_mod_sixteen hp.hdrAligned hp.hdrLeast hv
  have hcap : (BitVec.ofNat 32 (descParse p.rbHdrSize word).cap.toNat).toNat =
      (descParse p.rbHdrSize word).cap.toNat := by
    rw [BitVec.toNat_ofNat, Nat.mod_eq_of_lt (by omega)]
  refine ⟨rfl, ?_, ?_, ?_, ?_, ?_⟩
  · rw [hcap]
    exact Int.toNat_of_nonneg hv.le
  · omega
  · simp only [hcap, Config.rbAlignment]
    omega
  · omega
  · rw [descParse_base_toNat]
    omega

/-- NEG_SUCCESS with two valid descriptors leads to the Ready state (`45_session.md` R149). -/
theorem MachineInv.negSuccess (h : MachineInv s) (hf : s.fsm = .negWait) (ha : s.neg.abortReq = false) {l r : Word}
    (hl : 0 < (descParse s.cfg.rbHdrSize l).cap) (hr : 0 < (descParse s.cfg.rbHdrSize r).cap) :
    MachineInv (s.negSuccess (descParse s.cfg.rbHdrSize l) (descParse s.cfg.rbHdrSize r)) := by
  have hopen : (if s.neg.kind = .openCmd then true else s.status.isOpen) = true := by
    split
    · rfl
    · exact (h.socket.waitKind hf).2 (by cases hk : s.neg.kind <;> simp_all)
  rw [State.negSuccess_eq]
  refine h.of_idle rfl ?_ rfl le_rfl rfl
  exact
    { openOfRv := fun _ => hopen
      openOfHwf := fun _ => hopen
      openOfRxp := fun _ => hopen
      ringsUnset := nofun
      localOk := fun _ => ringRegsOk_descParse h.cfg hl
      remoteOk := fun _ => ringRegsOk_descParse h.cfg hr
      errOfDetail := rfl
      waitRv := nofun
      waitKind := nofun
      waitFew := nofun
      idleEnts := fun _ => rfl
      idleAbort := fun _ => ha
      idleTimeout := fun _ => rfl
      timeoutEnabled := nofun
      abortLegal := fun hreq => absurd (hreq.symm.trans ha) nofun
      execReady := nofun }

/-! ### The negotiation's step -/

/-- A popped entry is one of fewer than three, or the three are judged. -/
theorem MachineInv.takeEntry (h : MachineInv s) (hf : s.fsm = .negWait) (ha : s.neg.abortReq = false) (e : Entry) :
    MachineInv (s.takeEntry e) := by
  have hfew : s.neg.ents.length < 3 := h.socket.waitFew hf
  by_cases h2 : s.neg.ents.length = 2
  · rw [State.takeEntry_third e hf h2]
    set u : State := { s with neg := { s.neg with ents := s.neg.ents ++ [e] } }
    rcases negJudge_cases u.cfg.rbHdrSize u.neg.ents with ⟨l, r, hj, hl, hr⟩ | ⟨d, hj, _⟩
    · rw [State.negEval_ok hj]
      exact h.negSuccess hf ha hl hr
    · rw [State.negEval_error hj]
      exact h.negFail hf ha d
  · rw [State.takeEntry_few e hf (by omega)]
    refine h.setNeg rfl { h.socket with waitFew := fun _ => ?_, idleEnts := fun hn => absurd hf hn }
    simp only [List.length_append, List.length_singleton, Config.negEntries]
    omega

/-- NEG_POP keeps the invariant, in each of its cases (`42_negotiation.md` R101). -/
theorem MachineInv.negPop (h : MachineInv s) (hf : s.fsm = .negWait) (hpop : s.negPop c = .next t) : MachineInv t := by
  rcases State.negPop_cases hpop with
    ⟨_, rfl⟩ | ⟨ha, _, rfl⟩ | ⟨_, _, _, rfl⟩ | ⟨ha, _, e, es, hin, ⟨_, rfl⟩ | ⟨_, rfl⟩⟩
  · exact h.negAbort hf
  · exact h.negFail hf ha _
  · exact h
  · have hdrop : MachineInv { s.drawn 1 with
        mbx := { s.mbx with inbound := s.mbx.inbound.drop (Config.freeDrop s.ghost.draws) } } :=
      h.frame s.env _ s.results _ s.mem s.status.ovr ((List.drop_suffix _ _).length_le.trans h.fifo) h.mem
    exact hdrop.negFail hf ha _
  · have hpopped : MachineInv (s.popped e es) := by
      refine h.frame s.env _ s.results _ s.mem s.status.ovr (le_trans ?_ h.fifo) h.mem
      simp [hin]
    exact hpopped.takeEntry hf ha e

/-- The controller's step keeps the invariant, in each state of its FSM. -/
theorem MachineInv.controllerTurn (h : MachineInv s) (hturn : s.controllerTurn c = .next t) : MachineInv t := by
  rcases State.controllerTurn_cases hturn with ⟨_, rfl⟩ | ⟨hf, hpop⟩ | ⟨hf, hc, rfl⟩ | ⟨hf, hc, rfl⟩
  · exact h
  · exact h.negPop hf hpop
  · exact (State.writeStep_exec c h.xfer hf hc).machineInv h hf (h.xfer.writeStep hf hc c)
  · obtain ⟨_, hrv, _⟩ := h.socket.execReady hf
    exact (State.readStep_exec c h.xfer hf hc).machineInv h hf
      (h.xfer.readStep hf hc (h.socket.remoteOk hrv).capAligned c)

end Sys2Proof.Machine
end

section
/-! PROOFS. The machine's invariant under the turns of the host, the partner, the mailbox, the timeout and the reset
input, and with the controller's under every step. -/

namespace Sys2Proof.Machine

variable {s t : State} {i : Instr}

/-! ### The CMD write -/

/-- A command that only an idle controller accepts. -/
theorem MachineInv.atIdle (h : MachineInv s) {f : State → State} (hrun : s.fsm = .idle → MachineInv (f s)) :
    MachineInv (s.atIdle f) := by
  by_cases hf : s.fsm = .idle
  · exact State.atIdle_idle f hf ▸ hrun hf
  · exact State.atIdle_busy f hf ▸ h.overrun

/-- A waiting negotiation records CLOSE or RESET as its abort (`42_negotiation.md` R107). -/
theorem MachineInv.requestAbort (h : MachineInv s) (hf : s.fsm = .negWait)
    (hi : i = .close ∨ ∃ both, i = .reset both) : MachineInv (s.requestAbort i) := by
  have hlegal : firstWord i = firstWord .close ∨ ∃ both, firstWord i = firstWord (.reset both) :=
    hi.imp (congrArg firstWord) fun ⟨both, h⟩ => ⟨both, congrArg firstWord h⟩
  exact h.setNeg rfl { h.socket with idleAbort := fun hn => absurd hf hn, abortLegal := fun _ => hlegal }

/-- CLOSE or RESET in each state of the controller. -/
theorem MachineInv.atIdleOrAbort (h : MachineInv s) {f : State → State}
    (hi : i = .close ∨ ∃ both, i = .reset both) (hrun : s.fsm = .idle → MachineInv (f s)) :
    MachineInv (s.atIdleOrAbort i f) := by
  cases hf : s.fsm with
  | idle => exact State.atIdleOrAbort_idle i f hf ▸ hrun hf
  | negWait => exact State.atIdleOrAbort_negWait i f hf ▸ h.requestAbort hf hi
  | exec => exact State.atIdleOrAbort_exec i f hf ▸ h.overrun

/-- A command that demands an open socket. -/
theorem MachineInv.withOpen (h : MachineInv s) (hf : s.fsm = .idle) {o : BitVec 4} {f : State → State}
    (hrun : s.status.isOpen = true → MachineInv (s.setLopc o) → MachineInv (f (s.setLopc o))) :
    MachineInv (s.withOpen o f) := by
  have hopc := h.setLopc hf o
  cases ho : s.status.isOpen with
  | true => exact State.withOpen_open o f ho ▸ hrun ho hopc
  | false => exact State.withOpen_closed o f ho ▸ hopc.raise_of_idle hf _

/-- OPEN of an idle controller is rejected or starts the negotiation of a closed socket. -/
theorem MachineInv.openIdle (h : MachineInv s) (hf : s.fsm = .idle) (rxie : Bool) : MachineInv (s.openIdle rxie) := by
  have hopc := h.setLopc hf 0x1
  cases ho : s.status.isOpen with
  | true =>
    rw [State.openIdle_open rxie hf ho, ← State.raise_setLopc _ _ hf]
    exact hopc.raise_of_idle hf _
  | false =>
    rw [State.openIdle_closed rxie ho]
    exact (hopc.acceptCmd _).negStart hf (by simp [ho]) rfl

/-- What WRITE's register checks have found when they all pass (`43_write.md` R114). -/
theorem State.writeChecks_none (h : s.writeChecks = none) :
    s.status.rv = true ∧ s.status.hwf = false ∧ s.args.addr ≠ 0 ∧
      0 < s.args.len.toNat ∧ s.args.len.toNat ≤ Config.rbMaxPayloadLen := by
  rw [State.writeChecks_eq] at h
  split_ifs at h with hrv hhwf haddr hlen hmax
  have hpos : s.args.len.toNat ≠ 0 := fun h0 => hlen (BitVec.eq_of_toNat_eq h0)
  exact ⟨by simpa using hrv, by simpa using hhwf, haddr, by omega, not_lt.1 hmax⟩

/-- What READ's register checks have found when they all pass (`44_read.md` R127). -/
theorem State.readChecks_none (h : s.readChecks = none) :
    s.status.rv = true ∧ s.status.hwf = false ∧ s.args.addr ≠ 0 := by
  rw [State.readChecks_eq] at h
  split_ifs at h with hrv hhwf haddr
  exact ⟨by simpa using hrv, by simpa using hhwf, haddr⟩

theorem MachineInv.writeStart (h : MachineInv s) (hf : s.fsm = .idle) (ho : s.status.isOpen = true)
    (hl : s.status.lopc = 0x6) : MachineInv s.writeStart := by
  simp only [State.writeStart]
  split
  · exact h.raise_of_idle hf _
  · obtain ⟨hrv, hhwf, haddr, hlen⟩ := State.writeChecks_none ‹_›
    exact (h.acceptCmd .write).enterExec hf hl ho hrv hhwf haddr fun _ => hlen

theorem MachineInv.readStart (h : MachineInv s) (hf : s.fsm = .idle) (ho : s.status.isOpen = true)
    (hl : s.status.lopc = 0x7) : MachineInv s.readStart := by
  simp only [State.readStart]
  split
  · exact h.raise_of_idle hf _
  · obtain ⟨hrv, hhwf, haddr⟩ := State.readChecks_none ‹_›
    exact (h.acceptCmd .read).enterExec hf hl ho hrv hhwf haddr nofun

/-- The result registers are no part of the invariant, so NEGPEND only completes. -/
theorem MachineInv.negPendResult (h : MachineInv s) (hf : s.fsm = .idle) : MachineInv s.negPendResult :=
  (h.frame s.env s.ghost _ s.mbx s.mem s.status.ovr h.fifo h.mem).complete_of_idle hf

/-- The CMD write of a command keeps the invariant, in each state of the controller. -/
theorem MachineInv.exec {v : Word} (h : MachineInv s) (hd : decodeCmd v = .ok i) (hx : exec i s = .next t) :
    MachineInv t := by
  rcases decodeCmd_ok hd with ⟨rxie, rfl⟩ | rfl | rfl | rfl | ⟨both, rfl⟩ | rfl | rfl <;> cases hx
  · exact h.atIdle fun hf => h.openIdle hf rxie
  · exact h.atIdleOrAbort (.inl rfl) fun hf => h.withOpen hf fun _ hopc =>
      ((hopc.acceptCmd .close).closeEffects hf).complete_of_idle hf
  · exact h.atIdle fun hf => h.withOpen hf fun _ hopc => (hopc.acceptCmd .negPend).negPendResult hf
  · exact h.atIdle fun hf => h.withOpen hf fun ho hopc =>
      (hopc.acceptCmd .negotiate).negStart hf (by simp [ho]) rfl
  · exact h.atIdleOrAbort (.inr ⟨both, rfl⟩) fun hf => h.withOpen hf fun _ hopc =>
      ((hopc.acceptCmd (.reset both)).resetEffects hf both).complete_of_idle hf
  · exact h.atIdle fun hf => h.withOpen hf fun ho hopc => hopc.writeStart hf ho rfl
  · exact h.atIdle fun hf => h.withOpen hf fun ho hopc => hopc.readStart hf ho rfl

theorem MachineInv.cmdWrite {v : Word} (h : MachineInv s) (hx : s.cmdWrite v = .next t) : MachineInv t := by
  simp only [State.cmdWrite] at hx
  split at hx
  · exact h.exec ‹_› hx
  · cases hx
    refine h.atIdle fun hf => ?_
    have hopc := h.setLopc hf (opcField v)
    exact hopc.raise_of_idle hf _

/-! ### The host's turn -/

/-- The argument registers are written at BUSY = 0 alone, when no transfer relies on them. -/
theorem MachineInv.writeArg (h : MachineInv s) (f : Args → Args) : MachineInv (s.writeArg f) := by
  simp only [State.writeArg]
  split
  · exact h.overrun
  · have hf : s.fsm = .idle := by simpa [State.busy] using ‹¬ s.busy = true›
    exact h.of_idle hf { h.socket with } rfl le_rfl rfl

theorem MachineInv.writeReg (h : MachineInv s) (r : Reg) (v : Word) : MachineInv (s.writeReg r v) := by
  cases r
  case status =>
    simp only [State.writeReg]
    split
    · exact h.frame s.env s.ghost s.results s.mbx s.mem false h.fifo h.mem
    · exact h
  case irqEn => exact h.setIrq _ h.socket.openOfRxp
  case irqPend =>
    simp only [State.writeReg]
    split
    · exact h.setIrq _ nofun
    · exact h
  case id0 | id1 | id2 | id3 | addr | len =>
    simp only [State.writeReg]
    exact h.writeArg _
  all_goals exact h

/-- A read of memory by the host or the partner changes nothing that the invariant depends on. -/
theorem MachineInv.loadBytes (h : MachineInv s) (ag : Agent) (k : EventKind) (a : Word) (bs : List EventByte) :
    MachineInv (s.loadBytes ag k a bs) :=
  h.frame s.env _ s.results s.mbx s.mem s.status.ovr h.fifo h.mem

/-- A write of memory by the host or the partner keeps the canonical form. -/
theorem MachineInv.storeBytes (h : MachineInv s) (ag : Agent) (k : EventKind) (a : Word) (bs : List EventByte) :
    MachineInv (s.storeBytes ag k a bs) :=
  h.frame s.env _ s.results s.mbx _ s.status.ovr h.fifo (Mem.wf_writeBytes h.mem a _)

theorem MachineInv.hostRead (h : MachineInv s) (acc : Access) : MachineInv (s.hostRead acc) := by
  rw [State.hostRead_eq]
  exact h.frame _ _ s.results s.mbx s.mem s.status.ovr h.fifo h.mem

/-- One act of the host keeps the invariant. -/
theorem MachineInv.hostAct (h : MachineInv s) {a : HostAct} {rest : List HostAct} (hx : s.hostAct a rest = .next t) :
    MachineInv t := by
  have hprog : MachineInv (s.setHostProg rest) := h.setEnv _
  have hresp : ∀ r, MachineInv ((s.setHostProg rest).respond r) := fun r => hprog.setEnv _
  cases a with
  | regRead acc =>
    simp only [State.hostAct] at hx
    split at hx <;> cases hx
    · exact hprog.hostRead acc
    · exact hresp _
  | regWrite acc v =>
    simp only [State.hostAct] at hx
    split at hx
    · rcases State.writeOffset_cases hx with ⟨_, rfl⟩ | ⟨_, hx⟩ | ⟨r, _, _, rfl⟩
      · exact hresp _
      · exact (hresp .done).cmdWrite hx
      · exact (hresp .done).writeReg r v
    · cases hx
      exact hresp _
  | poll acc mask value =>
    simp only [State.hostAct] at hx
    split at hx
    · split at hx <;> cases hx
      · exact hprog.hostRead acc
      · exact h.hostRead acc
    · cases hx
      exact hresp _
  | load | load32 | loadAcq =>
    cases hx
    exact (hresp _).loadBytes .host _ _ _
  | store | store32 | storeRel =>
    cases hx
    exact (hresp .done).storeBytes .host _ _ _

theorem MachineInv.hostTurn (h : MachineInv s) (hx : s.hostTurn = .next t) : MachineInv t := by
  simp only [State.hostTurn] at hx
  split at hx
  · cases hx
    exact h
  · exact h.hostAct hx

/-! ### The partner's turn and the mailbox's -/

/-- One act of the partner keeps the invariant: a push finds a free place in the FIFO (`60_exceptions.md` R165). -/
theorem MachineInv.partnerAct (h : MachineInv s) (a : PartnerAct) (rest : List PartnerAct) :
    MachineInv (s.partnerAct a rest) := by
  have hprog : MachineInv (s.setPartnerProg rest) := h.setEnv _
  have hmbx : ∀ m : Mailbox, m.inbound.length ≤ s.mbx.inbound.length →
      MachineInv { s.setPartnerProg rest with mbx := m } := fun m hm =>
    hprog.frame _ s.ghost s.results m s.mem s.status.ovr (hm.trans h.fifo) h.mem
  cases a with
  | push e =>
    simp only [State.partnerAct]
    split
    · refine hprog.frame _ _ s.results _ s.mem s.status.ovr ?_ h.mem
      simpa using ‹_›
    · exact h
  | signal port =>
    simp only [State.partnerAct]
    split
    · exact hmbx _ le_rfl
    · exact hprog
  | load | load32 | loadAcq => exact hprog.loadBytes .partner _ _ _
  | store | store32 | storeRel => exact hprog.storeBytes .partner _ _ _
  | popOutbound => exact hmbx _ le_rfl
  | clear both =>
    refine hmbx _ ?_
    cases both
    · exact le_rfl
    · exact Nat.zero_le _

theorem MachineInv.partnerTurn (h : MachineInv s) : MachineInv s.partnerTurn := by
  simp only [State.partnerTurn]
  split
  · exact h
  · exact h.partnerAct _ _

/-- A delivery to the IRBC sets RXP on an open socket alone (`60_exceptions.md` R158). -/
theorem MachineInv.deliverToIrbc (h : MachineInv s) (n : Nat) : MachineInv (s.deliverToIrbc n) := by
  simp only [State.deliverToIrbc, State.partnerEvent_eq]
  split
  · exact h
  · have hline := h.frame s.env s.ghost s.results
      { s.mbx with sigFromPartner := s.mbx.sigFromPartner - (n + 1) } s.mem s.status.ovr h.fifo h.mem
    refine hline.setIrq _ fun hr => ?_
    rcases (Bool.or_eq_true _ _).mp hr with hr | hr
    · exact h.socket.openOfRxp hr
    · exact hr

theorem MachineInv.deliverToPartner (h : MachineInv s) (n : Nat) : MachineInv (s.deliverToPartner n) := by
  simp only [State.deliverToPartner]
  split
  · exact h
  · exact h.frame s.env s.ghost s.results _ s.mem s.status.ovr h.fifo h.mem

/-! ### The timeout event and the reset input -/

/-- The timeout event comes only to a waiting negotiation with the timeout enabled (`42_negotiation.md` R106). -/
theorem MachineInv.timeoutEvent (h : MachineInv s) : MachineInv s.timeoutEvent := by
  simp only [State.timeoutEvent]
  split
  · rename_i hev
    obtain ⟨henabled, hheld⟩ := (Bool.and_eq_true _ _).mp hev
    obtain ⟨hf, _⟩ := State.held_iff.1 hheld
    exact h.setNeg rfl
      { h.socket with idleTimeout := fun hn => absurd hf hn, timeoutEnabled := fun _ => henabled }
  · exact h

/-- The reset values are those of a closed socket with no command running (`70_reset_and_hazards.md` R172). -/
theorem SocketInv.resetRegisters (s : State) : SocketInv s.resetRegisters := by
  constructor <;> simp [Status.atReset, Irq.atReset, Neg.atReset, Detail.kind]

/-- The reset input keeps memory's canonical form, whatever bytes an abandoned transfer leaves. -/
theorem MachineInv.resetInput (h : MachineInv s) : MachineInv s.resetInput := by
  obtain ⟨hframe, hmem⟩ := State.scramble_frame s.abandonedTargets s
  have hscrambled : MachineInv (State.scramble s.abandonedTargets s) := by
    rw [hframe]
    exact h.frame s.env _ s.results s.mbx _ s.status.ovr h.fifo (hmem h.mem).1
  exact hscrambled.of_idle rfl (SocketInv.resetRegisters _) rfl le_rfl rfl

/-! ### The step -/

theorem MachineInv.takeTurn {turn : Turn} (h : MachineInv s) (hx : s.takeTurn turn = .next t) : MachineInv t := by
  cases turn with
  | controller c => exact h.controllerTurn hx
  | host => exact h.hostTurn hx
  | partner => cases hx; exact h.partnerTurn
  | deliverToIrbc n => cases hx; exact h.deliverToIrbc n
  | deliverToPartner n => cases hx; exact h.deliverToPartner n
  | timeout => cases hx; exact h.timeoutEvent
  | reset => cases hx; exact h.resetInput

/-- Settles O51: the turn of each agent keeps the invariant, and the schedule is no part of it. -/
theorem stepKeepsTheInvariant : Obligations.StepKeepsTheInvariant := by
  unfold Obligations.StepKeepsTheInvariant
  intro s t h hstep
  rcases step_cases hstep with ⟨_, hturn⟩ | ⟨turn, ts, _, hturn⟩
  · exact h.controllerTurn hturn
  · exact (h.setSched ts).takeTurn hturn

end Sys2Proof.Machine
end

section
/-! PROOFS. The agents beside the controller (`60_exceptions.md` R153, R158 to R165, `70_reset_and_hazards.md` R190):
every turn answers a next state; what a delivery, a signal and a push do; and what the turns of the partner, of the
mailbox and of a host that writes no register leave unchanged. -/

namespace Sys2Proof.Machine

variable {s t : State} {e : Event} {off : BitVec 8} {r : Reg}

/-! ### Every turn answers a next state -/

/-- Every instruction has a meaning that answers a next state (`00_scope.md` R11). -/
theorem exec_next (i : Instr) (s : State) : ∃ t, exec i s = .next t := by
  cases i <;> exact ⟨_, rfl⟩

theorem State.cmdWrite_next (v : Word) (s : State) : ∃ t, s.cmdWrite v = .next t := by
  simp only [State.cmdWrite]
  split
  · exact exec_next _ s
  · exact ⟨_, rfl⟩

theorem State.writeOffset_next (off : BitVec 8) (v : Word) (s : State) : ∃ t, s.writeOffset off v = .next t := by
  simp only [State.writeOffset]
  split
  · exact ⟨_, rfl⟩
  · exact s.cmdWrite_next v
  · exact ⟨_, rfl⟩

theorem State.negPop_next (c : CtlChoice) (s : State) : ∃ t, s.negPop c = .next t := by
  simp only [State.negPop, State.receive_eq]
  split
  · exact ⟨_, rfl⟩
  split
  · exact ⟨_, rfl⟩
  split
  · exact ⟨_, rfl⟩
  split <;> exact ⟨_, rfl⟩

theorem State.controllerTurn_next (c : CtlChoice) (s : State) : ∃ t, s.controllerTurn c = .next t := by
  simp only [State.controllerTurn]
  split
  · exact ⟨_, rfl⟩
  · exact s.negPop_next c
  · split <;> exact ⟨_, rfl⟩

/-- An act of the host is performed or refused, and either is a next state (`10_state.md` R15). -/
theorem State.hostAct_next (a : HostAct) (rest : List HostAct) (s : State) : ∃ t, s.hostAct a rest = .next t := by
  cases a with
  | regRead acc =>
    simp only [State.hostAct]
    split <;> exact ⟨_, rfl⟩
  | regWrite acc v =>
    simp only [State.hostAct]
    split
    · exact (s.hostWrote rest).writeOffset_next acc.offset v
    · exact ⟨_, rfl⟩
  | poll acc mask value =>
    simp only [State.hostAct]
    split
    · split <;> exact ⟨_, rfl⟩
    · exact ⟨_, rfl⟩
  | load | store | load32 | store32 | loadAcq | storeRel => exact ⟨_, rfl⟩

theorem State.hostTurn_next (s : State) : ∃ t, s.hostTurn = .next t := by
  simp only [State.hostTurn]
  split
  · exact ⟨_, rfl⟩
  · exact s.hostAct_next _ _

theorem State.takeTurn_next (turn : Turn) (s : State) : ∃ t, s.takeTurn turn = .next t := by
  cases turn with
  | controller c => exact s.controllerTurn_next c
  | host => exact s.hostTurn_next
  | partner | deliverToIrbc | deliverToPartner | timeout | reset => exact ⟨_, rfl⟩

/-! ### Signals and pushes -/

/-- A delivery to the IRBC as one record, with a signal under way and without (`60_exceptions.md` R158, R165). -/
theorem State.deliverToIrbc_eq (n : Nat) (s : State) : s.deliverToIrbc n =
    { s with
      irq := { s.irq with rxp := s.irq.rxp || (s.status.isOpen && decide (0 < s.mbx.sigFromPartner)) }
      mbx := { s.mbx with sigFromPartner := s.mbx.sigFromPartner - (n + 1) } } := by
  rw [State.deliverToIrbc, State.partnerEvent_eq]
  split
  · next hnone =>
    simp only [hnone, Nat.zero_sub, Nat.lt_irrefl, decide_false, Bool.and_false, Bool.or_false]
    rw [← hnone]
  · next hsome => simp only [Nat.pos_of_ne_zero hsome, decide_true, Bool.and_true]

/-- A delivery to the partner as one record, with a signal under way and without (`60_exceptions.md` R165). -/
theorem State.deliverToPartner_eq (n : Nat) (s : State) : s.deliverToPartner n =
    { s with mbx := { s.mbx with
        sigToPartner := s.mbx.sigToPartner - (n + 1)
        partnerIrqs := if 0 < s.mbx.sigToPartner then s.mbx.partnerIrqs + 1 else s.mbx.partnerIrqs } } := by
  rw [State.deliverToPartner]
  split
  · next hnone =>
    simp only [hnone, Nat.zero_sub, Nat.lt_irrefl, if_false]
    rw [← hnone]
  · next hsome => simp only [Nat.pos_of_ne_zero hsome, if_true]

/-- The partner's turn is its next act. -/
theorem State.partnerTurn_cons {a : PartnerAct} {rest : List PartnerAct} (h : s.env.partnerProg = a :: rest) :
    s.partnerTurn = s.partnerAct a rest := by
  simp only [State.partnerTurn, h]

theorem State.partnerAct_push_room {x : Entry} (rest : List PartnerAct)
    (h : s.mbx.inbound.length < s.cfg.mboxFifoDepth) :
    s.partnerAct (.push x) rest = (s.setPartnerProg rest).pushed x :=
  if_pos h

theorem State.partnerAct_push_full {x : Entry} (rest : List PartnerAct)
    (h : s.cfg.mboxFifoDepth ≤ s.mbx.inbound.length) : s.partnerAct (.push x) rest = s :=
  if_neg (Nat.not_lt.2 h)

/-- The partner's signal as one record: only SW_IRQ_PORT leads to the line (`60_exceptions.md` R158). -/
theorem State.partnerAct_signal (port : Nat) (rest : List PartnerAct) (s : State) :
    s.partnerAct (.signal port) rest =
      { s with
        env := { s.env with partnerProg := rest }
        mbx := { s.mbx with sigFromPartner :=
          if port = s.cfg.swIrqPort then s.mbx.sigFromPartner + 1 else s.mbx.sigFromPartner } } := by
  simp only [State.partnerAct]
  split <;> rfl

/-! ### What the other agents' turns keep -/

/-- At most one event is recorded, none of the controller. -/
def RecordsOutside (s t : State) : Prop :=
  ∃ es : List Event, t.ghost.trace = es ++ s.ghost.trace ∧ es.length ≤ 1 ∧ ∀ e ∈ es, e.agent ≠ .controller

theorem RecordsOutside.none (h : t.ghost.trace = s.ghost.trace) : RecordsOutside s t :=
  ⟨[], h, Nat.zero_le _, nofun⟩

theorem RecordsOutside.one (h : t.ghost.trace = e :: s.ghost.trace) (he : e.agent ≠ .controller) : RecordsOutside s t :=
  ⟨[e], h, Nat.le_refl _, fun _ hmem => List.mem_singleton.1 hmem ▸ he⟩

/-- What a turn of the partner, the mailbox or the host does at most, a register write of the host apart: it changes
RXP, memory, the mailbox, the environment and the record, and adds no entry to the outbound FIFO. -/
structure OutsideTurn (s t : State) : Prop where
  frame : t =
    { s with
      irq := { s.irq with rxp := t.irq.rxp }
      mem := t.mem
      mbx := t.mbx
      env := t.env
      ghost := t.ghost }
  outbound : t.mbx.outbound <:+ s.mbx.outbound
  recorded : RecordsOutside s t

/-- What a memory access of the host or the partner, or a register read or poll of the host, does at most: neither RXP
nor the mailbox changes. -/
structure AccessTurn (s t : State) : Prop where
  frame : t = { s with mem := t.mem, env := t.env, ghost := t.ghost }
  recorded : RecordsOutside s t

theorem AccessTurn.irq (h : AccessTurn s t) : t.irq = s.irq := by rw [h.frame]

theorem AccessTurn.mbx (h : AccessTurn s t) : t.mbx = s.mbx := by rw [h.frame]

/-- No register read sees what such an act changes. -/
theorem AccessTurn.readOffset (h : AccessTurn s t) (off : BitVec 8) : t.readOffset off = s.readOffset off := by
  rw [h.frame]
  rfl

theorem AccessTurn.outside (h : AccessTurn s t) : OutsideTurn s t where
  frame := by rw [h.irq, h.mbx]; exact h.frame
  outbound := h.mbx ▸ List.suffix_rfl
  recorded := h.recorded

/-! ### The registers after such a turn -/

theorem OutsideTurn.fields (h : OutsideTurn s t) :
    t.status = s.status ∧ t.irq.rxie = s.irq.rxie ∧ t.args = s.args ∧ t.results = s.results ∧ t.rings = s.rings ∧
      t.fsm = s.fsm ∧ t.neg = s.neg ∧ t.xfer = s.xfer ∧ t.cfg = s.cfg := by
  rw [h.frame]
  exact ⟨rfl, rfl, rfl, rfl, rfl, rfl, rfl, rfl, rfl⟩

theorem offset_of_regAt_status (h : regAt off = some .status) : off = 0x04 := by
  simpa [regMap] using regAt_mem h

theorem offset_of_regAt_irqPend (h : regAt off = some .irqPend) : off = 0x0C := by
  simpa [regMap] using regAt_mem h

/-- Of the registers only STATUS, by its live NEGP, and IRQ_PEND follow the mailbox and RXP. -/
theorem OutsideTurn.readReg (h : OutsideTurn s t) (hstatus : r ≠ .status) (hpend : r ≠ .irqPend) :
    t.readReg r = s.readReg r := by
  rw [h.frame]
  cases r
  case status => exact absurd rfl hstatus
  case irqPend => exact absurd rfl hpend
  all_goals rfl

theorem OutsideTurn.readOffset (h : OutsideTurn s t) (hstatus : off ≠ 0x04) (hpend : off ≠ 0x0C) :
    t.readOffset off = s.readOffset off := by
  simp only [State.readOffset]
  cases hr : regAt off with
  | none => rfl
  | some r =>
    exact h.readReg (fun hs => hstatus (offset_of_regAt_status (hs ▸ hr)))
      (fun hp => hpend (offset_of_regAt_irqPend (hp ▸ hr)))

/-- The mailbox reaches STATUS in bit 3 alone (`10_state.md` R16). -/
theorem State.statusWord_setMbx (m : Mailbox) (s : State) {i : Nat} (hi : i ≠ 3) :
    (State.statusWord { s with mbx := m }).getLsbD i = s.statusWord.getLsbD i := by
  match i with
  | 0 | 1 | 2 | _ + 4 =>
    simp only [State.statusWord, BitVec.getLsbD_append]
    rfl
  | 3 => exact absurd rfl hi

theorem OutsideTurn.statusWord (h : OutsideTurn s t) : t.statusWord = State.statusWord { s with mbx := t.mbx } := by
  rw [h.frame]
  rfl

theorem OutsideTurn.statusWord_bit (h : OutsideTurn s t) {i : Nat} (hi : i ≠ 3) :
    t.statusWord.getLsbD i = s.statusWord.getLsbD i := by
  rw [h.statusWord, State.statusWord_setMbx _ _ hi]

theorem OutsideTurn.negp (h : OutsideTurn s t) :
    t.statusWord.getLsbD 3 = (s.status.isOpen && decide (1 ≤ t.mbx.inbound.length)) := by
  obtain ⟨-, -, -, hnegp, -, -⟩ := State.statusWord_flags { s with mbx := t.mbx }
  rw [h.statusWord, hnegp]
  rfl

/-! ### Accesses -/

theorem AccessTurn.refl (s : State) : AccessTurn s s := ⟨rfl, .none rfl⟩

/-- What an agent has still to do, and the answer it got, are no part of the IRBC. -/
theorem AccessTurn.of_env {env : Env} (h : AccessTurn { s with env := env } t) : AccessTurn s t :=
  ⟨h.frame, h.recorded⟩

theorem State.loadBytes_access {ag : Agent} (hag : ag ≠ .controller) (k : EventKind) (a : Word)
    (bs : List EventByte) (s : State) : AccessTurn s (s.loadBytes ag k a bs) :=
  ⟨rfl, .one rfl hag⟩

theorem State.storeBytes_access {ag : Agent} (hag : ag ≠ .controller) (k : EventKind) (a : Word)
    (bs : List EventByte) (s : State) : AccessTurn s (s.storeBytes ag k a bs) :=
  ⟨rfl, .one rfl hag⟩

/-- A register read answers, and may record one event of the host (log 20). -/
theorem State.hostRead_access (acc : Access) (s : State) : AccessTurn s (s.hostRead acc) := by
  rcases s.hostRead_cases acc with h | ⟨-, h⟩ <;> rw [h]
  · exact ⟨rfl, .none rfl⟩
  · exact ⟨rfl, .one rfl nofun⟩

theorem State.hostRead_mem (acc : Access) (s : State) : (s.hostRead acc).mem = s.mem := by
  rw [State.hostRead_eq]

/-! ### The host -/

theorem State.hostAct_access {a : HostAct} {rest : List HostAct} (ha : ∀ acc v, a ≠ .regWrite acc v)
    (h : s.hostAct a rest = .next t) : AccessTurn s t := by
  have hrefused : AccessTurn s ((s.setHostProg rest).respond .error) := .of_env (.refl _)
  cases a with
  | regRead acc =>
    simp only [State.hostAct] at h
    split at h <;> cases h
    · exact .of_env (State.hostRead_access acc _)
    · exact hrefused
  | regWrite acc v => exact absurd rfl (ha acc v)
  | poll acc mask value =>
    simp only [State.hostAct] at h
    split at h
    · split at h <;> cases h
      · exact .of_env (State.hostRead_access acc _)
      · exact s.hostRead_access acc
    · cases h
      exact hrefused
  | load | load32 | loadAcq =>
    cases h
    exact .of_env (State.loadBytes_access (ag := .host) nofun _ _ _ _)
  | store | store32 | storeRel =>
    cases h
    exact .of_env (State.storeBytes_access (ag := .host) nofun _ _ _ _)

theorem State.hostAct_regRead_mem {acc : Access} {rest : List HostAct} (h : s.hostAct (.regRead acc) rest = .next t) :
    t.mem = s.mem := by
  simp only [State.hostAct] at h
  split at h <;> cases h
  · exact State.hostRead_mem acc _
  · rfl

theorem State.hostAct_poll_mem {acc : Access} {mask value : Word} {rest : List HostAct}
    (h : s.hostAct (.poll acc mask value) rest = .next t) : t.mem = s.mem := by
  simp only [State.hostAct] at h
  split at h
  · split at h <;> cases h
    · exact State.hostRead_mem acc _
    · exact State.hostRead_mem acc s
  · cases h
    rfl

/-- The host's turn is its next act. -/
theorem State.hostTurn_cons {a : HostAct} {rest : List HostAct} (h : s.env.hostProg = a :: rest) :
    s.hostTurn = s.hostAct a rest := by
  simp only [State.hostTurn, h]

theorem State.hostTurn_access (hprog : ∀ acc v rest, s.env.hostProg ≠ .regWrite acc v :: rest)
    (h : s.hostTurn = .next t) : AccessTurn s t := by
  cases hp : s.env.hostProg with
  | nil =>
    simp only [State.hostTurn, hp] at h
    cases h
    exact .refl s
  | cons a rest =>
    rw [State.hostTurn_cons hp] at h
    exact State.hostAct_access (fun acc v ha => hprog acc v rest (ha ▸ hp)) h

/-! ### The partner and the mailbox -/

theorem State.partnerAct_outside (a : PartnerAct) (rest : List PartnerAct) (s : State) :
    OutsideTurn s (s.partnerAct a rest) ∧ (s.partnerAct a rest).irq = s.irq := by
  have haccess : ∀ {u}, AccessTurn (s.setPartnerProg rest) u → OutsideTurn s u ∧ u.irq = s.irq := fun h =>
    ⟨h.of_env.outside, h.irq⟩
  cases a with
  | push x =>
    simp only [State.partnerAct]
    split
    · exact ⟨⟨rfl, List.suffix_rfl, .one rfl nofun⟩, rfl⟩
    · exact ⟨(AccessTurn.refl s).outside, rfl⟩
  | signal port =>
    rw [State.partnerAct_signal]
    exact ⟨⟨rfl, List.suffix_rfl, .none rfl⟩, rfl⟩
  | load | load32 | loadAcq => exact haccess (State.loadBytes_access (ag := .partner) nofun _ _ _ _)
  | store | store32 | storeRel => exact haccess (State.storeBytes_access (ag := .partner) nofun _ _ _ _)
  | popOutbound => exact ⟨⟨rfl, List.tail_suffix _, .none rfl⟩, rfl⟩
  | clear both => exact ⟨⟨rfl, List.nil_suffix, .none rfl⟩, rfl⟩

theorem State.partnerTurn_outside (s : State) : OutsideTurn s s.partnerTurn ∧ s.partnerTurn.irq = s.irq := by
  simp only [State.partnerTurn]
  split
  · exact ⟨(AccessTurn.refl s).outside, rfl⟩
  · exact s.partnerAct_outside _ _

theorem State.deliverToIrbc_outside (n : Nat) (s : State) : OutsideTurn s (s.deliverToIrbc n) := by
  rw [State.deliverToIrbc_eq]
  exact ⟨rfl, List.suffix_rfl, .none rfl⟩

theorem State.deliverToPartner_outside (n : Nat) (s : State) :
    OutsideTurn s (s.deliverToPartner n) ∧ (s.deliverToPartner n).irq = s.irq := by
  rw [State.deliverToPartner_eq]
  exact ⟨⟨rfl, List.suffix_rfl, .none rfl⟩, rfl⟩

/-! ### The step -/

/-- The schedule is no part of the IRBC. -/
theorem OutsideTurn.setSched {ts : List Turn} (h : OutsideTurn (s.setSched ts) t) : OutsideTurn s t :=
  ⟨h.frame, h.outbound, h.recorded⟩

/-- The host's turn comes next, and its next act is no register write. -/
def State.hostActs (ts : List Turn) (s : State) : Prop :=
  s.env.sched = .host :: ts ∧ ∀ acc v rest, s.env.hostProg ≠ .regWrite acc v :: rest

theorem State.hostActs.hostTurn {ts : List Turn} (ha : s.hostActs ts) (h : step s = .next t) :
    (s.setSched ts).hostTurn = .next t :=
  (step_of_sched ha.1).symm.trans h

theorem State.hostActs.access {ts : List Turn} (ha : s.hostActs ts) (h : step s = .next t) : AccessTurn s t :=
  .of_env (State.hostTurn_access (s := s.setSched ts) ha.2 (ha.hostTurn h))

theorem State.hostActs.hostAct {ts : List Turn} {a : HostAct} {rest : List HostAct} (ha : s.hostActs ts)
    (hp : s.env.hostProg = a :: rest) (h : step s = .next t) : (s.setSched ts).hostAct a rest = .next t :=
  (State.hostTurn_cons (s := s.setSched ts) hp).symm.trans (ha.hostTurn h)

/-- A step of the partner, of the mailbox, or of the host without a register write: only a delivery to the IRBC changes
the interrupt state. -/
theorem step_outside {ts : List Turn} (h : step s = .next t)
    (hturn : s.hostActs ts ∨ s.env.sched = .partner :: ts ∨ (∃ n, s.env.sched = .deliverToIrbc n :: ts) ∨
      ∃ n, s.env.sched = .deliverToPartner n :: ts) :
    OutsideTurn s t ∧ ((∀ n, s.env.sched ≠ .deliverToIrbc n :: ts) → t.irq = s.irq) := by
  rcases hturn with ha | hs | ⟨n, hs⟩ | ⟨n, hs⟩
  · exact ⟨(ha.access h).outside, fun _ => (ha.access h).irq⟩
  · cases (step_of_sched hs).symm.trans h
    obtain ⟨hout, hirq⟩ := (s.setSched ts).partnerTurn_outside
    exact ⟨hout.setSched, fun _ => hirq⟩
  · cases (step_of_sched hs).symm.trans h
    exact ⟨((s.setSched ts).deliverToIrbc_outside n).setSched, fun hno => absurd hs (hno n)⟩
  · cases (step_of_sched hs).symm.trans h
    obtain ⟨hout, hirq⟩ := (s.setSched ts).deliverToPartner_outside n
    exact ⟨hout.setSched, fun _ => hirq⟩

/-! ### The statements -/

/-- Settles O49: the turn at the head of the schedule, or the controller's, answers a next state. -/
theorem everyStepAnswersNext : Obligations.EveryStepAnswersNext := by
  unfold Obligations.EveryStepAnswersNext
  intro s
  simp only [step, State.nextTurn]
  split
  · exact s.controllerTurn_next _
  · exact State.takeTurn_next _ _

/-- Settles O45: the partner's signal and the two deliveries, each as one record. -/
theorem partnerEventsSetRxp : Obligations.PartnerEventsSetRxp := by
  unfold Obligations.PartnerEventsSetRxp
  refine fun s => ⟨rfl, fun port rest hprog => ?_, fun ts n hsched => ?_, fun ts n hsched => ?_⟩
  · rw [State.partnerTurn_cons hprog, State.partnerAct_signal]
  · rw [step_of_sched hsched, State.takeTurn, State.deliverToIrbc_eq]
    rfl
  · rw [step_of_sched hsched, State.takeTurn, State.deliverToPartner_eq]
    rfl

/-- Settles O46: the partner's push with room in the FIFO and without. -/
theorem fullFifoMakesThePartnerWait : Obligations.FullFifoMakesThePartnerWait := by
  unfold Obligations.FullFifoMakesThePartnerWait
  refine fun s e rest hprog => ⟨fun hroom => ?_, fun hfull => ?_⟩ <;> rw [State.partnerTurn_cons hprog]
  · rw [State.partnerAct_push_room rest hroom]
    exact ⟨rfl, rfl⟩
  · exact State.partnerAct_push_full rest hfull

/-- Settles O59: the registers' fields by the frame of the turn, the register reads from it, and the host's turn by the
access it is. -/
theorem otherAgentsChangeNoRegister : Obligations.OtherAgentsChangeNoRegister := by
  unfold Obligations.OtherAgentsChangeNoRegister
  intro s t ts h _ hturn
  obtain ⟨hout, hirq⟩ := step_outside h hturn
  obtain ⟨hstatus, hrxie, hargs, hresults, hrings, hfsm, hneg, hxfer, hcfg⟩ := hout.fields
  have haccess : s.hostActs ts → AccessTurn s t := fun ha => ha.access h
  have hact : ∀ {a rest}, s.hostActs ts → s.env.hostProg = a :: rest → (s.setSched ts).hostAct a rest = .next t :=
    fun ha hp => ha.hostAct hp h
  exact ⟨hstatus, hrxie, hargs, hresults, hrings, hfsm, hneg, hxfer, hcfg, hout.outbound, hirq,
    fun _ => hout.readOffset, fun _ => hout.statusWord_bit, hout.negp,
    fun ha => ⟨(haccess ha).mbx, (haccess ha).readOffset⟩,
    fun ha => ⟨fun _ _ _ _ hp => State.hostAct_poll_mem (s := s.setSched ts) (hact ha hp),
      fun _ _ hp => State.hostAct_regRead_mem (s := s.setSched ts) (hact ha hp)⟩,
    hout.recorded⟩

end Sys2Proof.Machine
end

section
/-! PROOFS. Bounded completion of WRITE and READ (`70_reset_and_hazards.md` R189): a bound on the controller steps that
the running command still takes, which every step that does not end the command lowers. -/

namespace Sys2Proof.Machine

variable {s t : State} {c : CtlChoice} {op : DataOp} {i : Nat}

/-! ### The steps that a command still takes -/

/-- The bound on the controller steps of the whole command, in accesses of one byte (log 10). -/
def State.cmdBound (s : State) : Nat :=
  match s.xfer.cmd with
  | .write => 28 + 2 * s.args.len.toNat
  | .read => 25 + 2 * s.rings.rcap.toNat

/-- A bound on the controller steps that the running command still takes from its phase on. -/
def State.stepsLeft (s : State) : Nat :=
  match s.xfer.phase with
  | .loadPeer => s.cmdBound
  | .loadOwn => s.cmdBound - 1
  | .loadLen => s.cmdBound - 2
  | .data => stepsOf s.xfer.todo + 2
  | .publish => 2
  | .signal => 1

theorem State.cmdBound_least (s : State) : 25 ≤ s.cmdBound := by
  rw [State.cmdBound]
  split <;> omega

/-- A command that goes on keeps its bound. -/
theorem ExecKept.cmdBound (h : ExecKept s t) (hf : t.fsm = .exec) : t.cmdBound = s.cmdBound := by
  obtain ⟨_, _, _, hcmd⟩ := h.goesOn hf
  simp only [State.cmdBound, hcmd, h.args, h.rings]

/-- The data accesses of a WRITE fit into its bound after its two loads, those of a READ after its three: a READ's
payload is available data, of which a ring holds no more than its capacity. -/
theorem XferInv.work_le (h : XferInv s) (hf : s.fsm = .exec) (hp : s.xfer.phase = .data) :
    stepsOf s.xfer.todo + 4 ≤ s.cmdBound ∧ (s.xfer.cmd = .read → stepsOf s.xfer.todo + 5 ≤ s.cmdBound) := by
  cases hcmd : s.xfer.cmd with
  | write =>
    obtain ⟨_, _, _, hrun⟩ := h.write hf hcmd
    have hwork := (hrun (.inl hp)).work
    simp only [State.cmdBound, hcmd]
    exact ⟨by omega, nofun⟩
  | read =>
    obtain ⟨_, hrun⟩ := h.read hf hcmd
    have hr := hrun (.inl hp)
    obtain ⟨hrlt, _⟩ := (cursorOK_iff _ _).1 hr.checked.rOk
    obtain ⟨hwlt, _⟩ := (cursorOK_iff _ _).1 hr.checked.wOk
    have hcap : _ + s.readAvail = s.rings.rcap.toNat := freeSpace_add_availData hwlt hrlt
    have hfits : s.xfer.len.toNat + 4 ≤ s.rings.rcap.toNat := hr.lenFits.trans (hcap ▸ Nat.le_add_left _ _)
    have hwork := hr.work
    simp only [State.readPayloadLen, Config.msgHdrSize] at hwork
    simp only [State.cmdBound, hcmd]
    omega

/-- A running command takes no more steps than its bound. -/
theorem XferInv.stepsLeft_le (h : XferInv s) (hf : s.fsm = .exec) : s.stepsLeft ≤ s.cmdBound := by
  have hleast := s.cmdBound_least
  cases hp : s.xfer.phase <;> simp only [State.stepsLeft, hp]
  case data =>
    obtain ⟨hwork, _⟩ := h.work_le hf hp
    omega
  all_goals omega

theorem State.stepsLeft_pos (s : State) : 0 < s.stepsLeft := by
  have hleast := s.cmdBound_least
  rw [State.stepsLeft]
  split <;> omega

/-! ### One step -/

/-- One data access, whichever it is, takes one of the steps that the pending accesses still take. -/
theorem State.performOp_steps (race : Bool) (h : s.xfer.todo[i]? = some op) :
    stepsOf (s.performOp race i op).xfer.todo + 1 = stepsOf s.xfer.todo := by
  cases op with
  | put dst b o => exact stepsOf_eraseIdx h
  | copy src dst o o' =>
    have hsteps := stepsOf_set (.put dst (s.byteRead src 0 ⟨race, o⟩) o') h
    exact Nat.add_right_cancel (m := 1) hsteps
  | header src k o => exact stepsOf_eraseIdx h

/-- A data access that does not end the command lowers the bound on its steps. -/
theorem State.dataStep_stepsLeft (hp : s.xfer.phase = .data) (htodo : s.xfer.todo ≠ [])
    (ht : (s.dataStep c).fsm = .exec) : (s.dataStep c).stepsLeft < s.stepsLeft := by
  obtain ⟨i, op, _, hget, heq⟩ := State.dataStep_cases c htodo
  rw [heq] at ht ⊢
  cases hb : c.busError with
  | true => simp [hb] at ht
  | false =>
    simp only [Bool.false_eq_true, if_false]
    have hsteps := State.performOp_steps (c.race.getLsbD 0) hget
    rcases s.performOp_phase (c.race.getLsbD 0) i op with hq | hq <;> simp only [State.stepsLeft, hp, hq] <;> omega

/-- The reads after the acquire are those of the own cursor and of the length field. -/
theorem LoadKind.phase {p : Phase} {k : EventKind} (h : LoadKind p k) : p = .loadOwn ∨ p = .loadLen := by
  cases h <;> simp

/-- The checks after a load that let the command go on lower the bound on its steps. -/
theorem LoadEnds.stepsLeft_lt {p : Phase} {u : State} (h : LoadEnds p u t) (hs : XferInv s) (hf : s.fsm = .exec)
    (hp : s.xfer.phase = p) (hload : p = .loadOwn ∨ p = .loadLen) (hk : ExecKept s t) (hx : XferInv t)
    (ht : t.fsm = .exec) : t.stepsLeft < s.stepsLeft := by
  have hleast := s.cmdBound_least
  have hbound := hk.cmdBound ht
  cases h with
  | raises d => cases ht
  | faults d => cases ht
  | toLength hp' =>
    subst hp'
    simp only [State.stepsLeft, State.setPhase_xfer, hp, hbound]
    omega
  | toData todo pos =>
    obtain ⟨hwork, hread⟩ := hx.work_le ht rfl
    simp only [hbound] at hwork hread
    simp only [State.stepsLeft, State.startData_xfer, hp] at hwork hread ⊢
    rcases hload with rfl | rfl <;> simp only
    · omega
    · obtain ⟨_, _, _, hcmd⟩ := hk.goesOn ht
      have hs' : s.xfer.cmd = .read := by
        cases hc : s.xfer.cmd with
        | write => exact absurd hp (hs.write hf hc).1
        | read => rfl
      have := hread (hcmd.trans hs')
      omega

/-- A step of a running command that does not end it lowers the bound on its steps. -/
theorem State.controllerTurn_stepsLeft (hs : XferInv s) (hf : s.fsm = .exec) (h : s.controllerTurn c = .next t)
    (hx : XferInv t) (ht : t.fsm = .exec) : t.stepsLeft < s.stepsLeft := by
  by_cases hp : s.xfer.phase = .data
  · obtain ⟨_, _, hdata⟩ := hs hf
    cases (State.controllerTurn_data c hf hp).symm.trans h
    exact State.dataStep_stepsLeft hp (hdata.1 hp) ht
  · obtain ⟨t', ht', hstep⟩ := State.controllerTurn_exec c hs hf
    cases ht'.symm.trans h
    have hk := hstep.kept hf
    cases hstep with
    | busFails hq => cases ht
    | acquires keep hq hb hkeep =>
      have hleast := s.cmdBound_least
      simp only [State.stepsLeft, hk.cmdBound ht, State.loadWord_xfer, (hkeep _ _).2, hq]
      omega
    | @loads k a keep u hq hb hkeep hends =>
      exact hends.stepsLeft_lt hs hf rfl hq.phase hk hx ht
    | performs i hq hb hop => exact absurd hq hp
    | publishFails hq => cases ht
    | publishes m v hq hb => simp [State.stepsLeft, hq]
    | signals r hq => cases ht

/-! ### The run -/

/-- An idle controller stays as it is, whatever the choices. -/
theorem runChoices_idle (cs : List CtlChoice) (hf : s.fsm = .idle) : runChoices cs s = .next s := by
  induction cs with
  | nil => rfl
  | cons c cs ih =>
    have hturn : s.controllerTurn c = .next s := by simp only [State.controllerTurn, hf]
    rw [runChoices_cons cs hturn, ih]

/-- As many steps as the bound allows end the command. -/
theorem runChoices_completes {cs : List CtlChoice} (hi : MachineInv s) (hf : s.fsm = .exec)
    (hlen : s.stepsLeft ≤ cs.length) : ∃ t, runChoices cs s = .next t ∧ t.fsm = .idle := by
  induction cs generalizing s with
  | nil => exact absurd hlen (Nat.not_le.2 s.stepsLeft_pos)
  | cons c cs ih =>
    obtain ⟨u, hturn, hstep⟩ := State.controllerTurn_exec c hi.xfer hf
    rw [runChoices_cons cs hturn]
    rcases (hstep.kept hf).fsm with hu | hu
    · have hiu := hi.controllerTurn hturn
      have hlt := State.controllerTurn_stepsLeft hi.xfer hf hturn hiu.xfer hu
      rw [List.length_cons] at hlen
      exact ih hiu hu (by omega)
    · exact ⟨u, runChoices_idle cs hu, hu⟩

/-- Settles O39: the bound of the statement is the one of the whole command, of which what is left is a part. -/
theorem transfersComplete : Obligations.TransfersComplete := by
  unfold Obligations.TransfersComplete
  intro s cs hi hf hlen
  have hbound : s.cmdBound ≤ cs.length := hlen
  exact runChoices_completes hi hf ((hi.xfer.stepsLeft_le hf).trans hbound)

end Sys2Proof.Machine
end

section
/-! PROOFS. The reset input and the state after it (`70_reset_and_hazards.md` R171 to R174, R190): what an abandoned
transfer may leave in memory, the register window at reset, and the invariants where a run may start. -/

namespace Sys2Proof.Machine

variable {s : State}

/-! ### The reset input -/

/-- The reset input as one update: the registers at reset, and memory with the record as the abandoned transfer leaves
them. -/
theorem State.resetInput_eq (s : State) : s.resetInput =
    { s.resetRegisters with
      mem := (State.scramble s.abandonedTargets s).mem, ghost := (State.scramble s.abandonedTargets s).ghost } :=
  congrArg State.resetRegisters (State.scramble_frame s.abandonedTargets s).1

/-- The mailbox, the parameters and what the other agents will do are untouched (`70_reset_and_hazards.md` R173). -/
theorem State.resetInput_outside (s : State) :
    s.resetInput.mbx = s.mbx ∧ s.resetInput.cfg = s.cfg ∧ s.resetInput.env = s.env := by
  rw [State.resetInput_eq]
  exact ⟨rfl, rfl, rfl⟩

/-- With no transfer abandoned the reset input leaves memory alone. -/
theorem State.resetInput_mem (h : s.abandonedTargets = []) : s.resetInput.mem = s.mem := by
  rw [State.resetInput_eq, h, State.scramble]

/-- Whatever is abandoned, a byte that is no target of it is as before. -/
theorem State.resetInput_read8 (hm : MemInv s) {a : Word} (ha : a ∉ s.abandonedTargets) :
    s.resetInput.mem.read8 a = s.mem.read8 a := by
  obtain ⟨_, hread⟩ := (State.scramble_frame s.abandonedTargets s).2 hm
  rw [State.resetInput_eq]
  exact hread a ha

/-- Outside EXEC nothing is abandoned. -/
theorem State.abandonedTargets_of_not_exec (h : s.fsm ≠ .exec) : s.abandonedTargets = [] :=
  if_neg fun hp => h hp.1

/-- Before the data accesses and after the publish nothing is abandoned. -/
theorem State.abandonedTargets_of_phase (hdata : s.xfer.phase ≠ .data) (hpub : s.xfer.phase ≠ .publish) :
    s.abandonedTargets = [] :=
  if_neg fun hp => hp.2.elim hdata hpub

/-- The abandoned bytes are among those the command writes. -/
theorem State.abandonedTargets_subset (s : State) : s.abandonedTargets ⊆ s.cmdTargets := by
  rw [State.abandonedTargets]
  split
  · exact List.Subset.refl _
  · exact List.nil_subset _

/-- The step of a reset turn is the reset input. -/
theorem step_reset {ts : List Turn} (h : s.env.sched = .reset :: ts) : step s = .next (s.setSched ts).resetInput := by
  simp only [step, State.nextTurn, h, State.takeTurn]

/-- Settles O47: the registers by the reset input's update, memory by what is abandoned. -/
theorem resetInputRestoresRegisters : Obligations.ResetInputRestoresRegisters := by
  unfold Obligations.ResetInputRestoresRegisters
  intro s ts hsched hm
  obtain ⟨hmbx, hcfg, henv⟩ := (s.setSched ts).resetInput_outside
  have hnone : s.abandonedTargets = [] → (s.setSched ts).resetInput.mem = s.mem := fun h =>
    State.resetInput_mem (s := s.setSched ts) h
  have hread : ∀ a, a ∉ s.cmdTargets → (s.setSched ts).resetInput.mem.read8 a = s.mem.read8 a := fun a ha =>
    State.resetInput_read8 (s := s.setSched ts) hm fun hmem => ha (s.abandonedTargets_subset hmem)
  refine ⟨_, step_reset hsched, rfl, rfl, rfl, rfl, rfl, rfl, rfl, hmbx, hcfg, henv,
    fun hf => hnone (State.abandonedTargets_of_not_exec hf),
    fun hdata hpub => hnone (State.abandonedTargets_of_phase hdata hpub),
    fun hc a ha => hread a fun hmem => ?_, fun hc a ha => hread a fun hmem => ?_⟩
  · simp only [State.cmdTargets, hc, State.writeTargets, List.mem_map, List.mem_range] at hmem
    obtain ⟨k, hk, rfl⟩ := hmem
    exact ha k hk rfl
  · simp only [State.cmdTargets, hc, State.readTargets, List.mem_map, List.mem_range] at hmem
    obtain ⟨i, hi, rfl⟩ := hmem
    exact ha i hi rfl

/-! ### The register window at reset -/

/-- PARAM0 and PARAM1 stand at the offsets 0x58 and 0x5C alone (`10_state.md` R14). -/
theorem offset_of_regAt_param {off : BitVec 8} {r : Reg} (h : regAt off = some r) :
    (r = .param0 → off = 0x58) ∧ (r = .param1 → off = 0x5C) := by
  have hmap : ∀ e ∈ regMap, (e.2 = .param0 → e.1 = 0x58) ∧ (e.2 = .param1 → e.1 = 0x5C) := by decide
  exact hmap _ (regAt_mem h)

/-- Every register but PARAM0 and PARAM1 reads 0 at reset (`70_reset_and_hazards.md` R172). -/
theorem State.reset_readReg {r : Reg} (h0 : r ≠ .param0) (h1 : r ≠ .param1) : State.reset.readReg r = 0 := by
  cases r with
  | param0 => exact absurd rfl h0
  | param1 => exact absurd rfl h1
  | _ => rfl

/-- Settles O48: a reserved offset reads 0, and the others as their registers do. -/
theorem resetRegisterValues : Obligations.ResetRegisterValues := by
  unfold Obligations.ResetRegisterValues
  refine ⟨fun off h0 h1 => ?_, rfl, rfl, rfl, rfl⟩
  rw [State.readOffset]
  cases hr : regAt off with
  | none => rfl
  | some r =>
    obtain ⟨hparam0, hparam1⟩ := offset_of_regAt_param hr
    exact State.reset_readReg (fun h => h0 (hparam0 h)) (fun h => h1 (hparam1 h))

/-! ### Where a run may start -/

theorem Params.default_valid : Params.default.Valid where
  hdrAligned := rfl
  hdrLeast := by decide
  hdrFits := by decide
  depthLeast := Nat.le_add_left 3 _
  popsMayFail := rfl

/-- A run may start at reset with any legal parameters, memory, mailbox and environment, and any record of entries that
ends with those in the FIFO. -/
theorem Initial.of_reset {p : Params} {m : Mem} {b : Mailbox} (v : Env) (old : List Entry) (hp : p.Valid)
    (hm : Mem.wf m = true) (hb : b.inbound.length ≤ p.mboxFifoDepth) :
    Initial { State.reset with
      cfg := p, mem := m, mbx := b, env := v, ghost := { Ghost.start with entered := old ++ b.inbound } } where
  atReset := rfl
  cfg := hp
  fifo := hb
  mem := hm
  trace := rfl
  entered := List.suffix_append old b.inbound

/-- A run starts with the controller idle. -/
theorem Initial.idle (h : Initial s) : s.fsm = .idle := by
  rw [← h.atReset, State.resetRegisters_fsm]

theorem Initial.machineInv (h : Initial s) : MachineInv s where
  cfg := h.cfg
  socket := h.atReset ▸ SocketInv.resetRegisters s
  lopc := ⟨by simp [h.idle], by simp [h.idle]⟩
  xfer := .of_not_exec (by simp [h.idle])
  fifo := h.fifo
  mem := h.mem

/-- With no event recorded there is none out of order. -/
theorem OrderInv.of_nil (h : s.ghost.trace = []) : OrderInv s := by
  constructor <;> simp [h, traceOrdered]

/-- What has entered the FIFO did so before the start; no negotiation has popped an entry, and no ring is placed. -/
theorem Initial.entryInv (h : Initial s) : EntryInv s where
  inFifo := h.entered
  agrees := ⟨s.ghost.entered, by rw [h.trace]; trivial, by simp [h.trace, pushed]⟩
  popped := by simp [h.trace]
  recorded := by
    have hents : s.neg.ents = [] := by rw [← h.atReset]; rfl
    simp [hents]
  rings := by
    have hrv : s.status.rv = false := by rw [← h.atReset]; rfl
    simp [hrv]

theorem Initial.traceInv (h : Initial s) : TraceInv s :=
  traceInv_iff.2 ⟨by simp [h.trace], .of_nil h.trace, h.entryInv⟩

/-- Settles O50: `State.reset` is the start with empty memory, mailbox and environment. -/
theorem resetMeetsTheInvariant : Obligations.ResetMeetsTheInvariant := by
  unfold Obligations.ResetMeetsTheInvariant
  refine ⟨?_, fun p m b v old hp hm hb => .of_reset v old hp hm hb, fun s h => ⟨h.machineInv, h.traceInv⟩⟩
  exact .of_reset (b := Mailbox.empty) Env.empty [] Params.default_valid Mem.wf_reset (Nat.zero_le _)

end Sys2Proof.Machine
end
